-- ==== Sys2Proof/Word.lean ====
section
/-! DEFINITION. The two unsigned word types of the spec (00_scope.md R10, R12). -/

namespace Sys2Proof

/-- A byte: also an element of GF(2^8) (40_datapath.md R110). -/
abbrev Byte := BitVec 8

/-- A 32-bit word: a register, a state column, a round-key word (00_scope.md R12). -/
abbrev Word := BitVec 32

end Sys2Proof
end

