-- ==== Sys2Proof/Syntax.lean ====
section
/-! DEFINITION. The six commands of 30_encoding.md R94, one constructor for each row of the opcode table. -/

namespace Sys2Proof

/-- A command. A length operand is a count of bytes, unscaled and unsigned (30_encoding.md R92, R93).
A word that decodes to ILLEGAL is no command (R95): the decoder rejects it. -/
inductive Instr where
  /-- Do nothing (43_control.md R191). -/
  | nop
  /-- Expand the user key into a session key (41_makekey.md R150). -/
  | makekey (klen blen : Nat)
  /-- Encrypt one block of DIN into DOUT (42_block.md R170). -/
  | encrypt (blen : Nat)
  /-- Decrypt one block of DIN into DOUT (42_block.md R172). -/
  | decrypt (blen : Nat)
  /-- Run the self-test, or report its cached result (43_control.md R192). -/
  | selftest
  /-- Clear all key and data material (43_control.md R196). -/
  | zeroize
deriving DecidableEq, Repr

end Sys2Proof
end

