-- ==== Sys2Proof/WellFormed.lean ====
section
/-! DEFINITION. Which commands have an encoding: the operands an assembler accepts (30_encoding.md R98). -/

namespace Sys2Proof

/-- "`k` and `b` are decimal or hex immediates in 0..63; an assembler refuses a value outside that range" (R98). -/
def lengthEncodable (n : Nat) : Bool := decide (n ≤ 63)

/-- A command is well-formed when each length operand it carries fits its six-bit field (30_encoding.md R91, R98). -/
def Instr.wellFormed : Instr → Bool
  | .nop => true
  | .makekey klen blen => lengthEncodable klen && lengthEncodable blen
  | .encrypt blen => lengthEncodable blen
  | .decrypt blen => lengthEncodable blen
  | .selftest => true
  | .zeroize => true

end Sys2Proof
end

