-- ==== Sys2Proof/Decode.lean ====
section
/-! DEFINITION. The command word: its fields, the decoder (30_encoding.md R91 to R96) and the encoder (R98). -/

namespace Sys2Proof

/-- Why a command word decodes to ILLEGAL (30_encoding.md R96). -/
inductive Illegal where
  /-- A bit of RSV1 (15:14) or RSV2 (31:22) is set. -/
  | reservedBits
  /-- OP lies in 0x06..0xFF. -/
  | reservedOpcode (op : Byte)
deriving DecidableEq, Repr

/-- OP, bits 7:0 of the command word (30_encoding.md R91). -/
def opField (cmd : Word) : Byte := cmd.extractLsb' 0 8

/-- KLEN, bits 13:8, as a count of bytes (30_encoding.md R92). -/
def klenField (cmd : Word) : Nat := (cmd.extractLsb' 8 6).toNat

/-- RSV1, bits 15:14 (30_encoding.md R91). -/
def rsv1Field (cmd : Word) : BitVec 2 := cmd.extractLsb' 14 2

/-- BLEN, bits 21:16, as a count of bytes (30_encoding.md R93). -/
def blenField (cmd : Word) : Nat := (cmd.extractLsb' 16 6).toNat

/-- RSV2, bits 31:22 (30_encoding.md R91). -/
def rsv2Field (cmd : Word) : BitVec 10 := cmd.extractLsb' 22 10

/-- The decoder of 30_encoding.md R95. Fields that an opcode does not read are ignored. -/
def decode (cmd : Word) : Except Illegal Instr :=
  if rsv2Field cmd ≠ 0 ∨ rsv1Field cmd ≠ 0 then .error .reservedBits
  else
    match (opField cmd).toNat with
    | 0x00 => .ok .nop
    | 0x01 => .ok (.makekey (klenField cmd) (blenField cmd))
    | 0x02 => .ok (.encrypt (blenField cmd))
    | 0x03 => .ok (.decrypt (blenField cmd))
    | 0x04 => .ok .selftest
    | 0x05 => .ok .zeroize
    | _ => .error (.reservedOpcode (opField cmd))

/-- A length operand moved to its field's place (30_encoding.md R98). -/
def placeLength (n place : Nat) : Word := BitVec.ofNat 32 n <<< place

/-- The encoder of 30_encoding.md R98: "An assembler writes ignored fields as 0". -/
def encode : Instr → Word
  | .nop => 0x00000000
  | .makekey klen blen => placeLength blen 16 ||| placeLength klen 8 ||| 0x01
  | .encrypt blen => placeLength blen 16 ||| 0x02
  | .decrypt blen => placeLength blen 16 ||| 0x03
  | .selftest => 0x00000004
  | .zeroize => 0x00000005

/-- The one mask of every row of the opcode table (30_encoding.md R95). -/
def opcodeMask : Word := 0xFFC0C0FF

/-- The match value of each row of the opcode table: its OP (30_encoding.md R94, R95). -/
def opcodeMatch : Instr → Word
  | .nop => 0x00000000
  | .makekey _ _ => 0x00000001
  | .encrypt _ => 0x00000002
  | .decrypt _ => 0x00000003
  | .selftest => 0x00000004
  | .zeroize => 0x00000005

/-- The bits of a command word that its command reads: the opcode, the reserved bits and the lengths it takes
(30_encoding.md R94, R95). -/
def readMask : Instr → Word
  | .nop => 0xFFC0C0FF
  | .makekey _ _ => 0xFFFFFFFF
  | .encrypt _ => 0xFFFFC0FF
  | .decrypt _ => 0xFFFFC0FF
  | .selftest => 0xFFC0C0FF
  | .zeroize => 0xFFC0C0FF

/-- The command the decoder reads from a table word of `nbits` bits (bits above them are 0). A command word is one
register value, so there is no byte order to lay it out in (30_encoding.md R90). -/
def decodeTableWord (nbits w : Nat) : Option Instr :=
  match decode (BitVec.ofNat 32 (w % 2 ^ nbits)) with
  | .ok i => some i
  | .error _ => none

end Sys2Proof
end

