-- ==== Sys2Proof/Machine/State.lean ====
section
/-! DEFINITION. The machine's state as plain data: the registers of 10_state.md R21, and beside them what the model
holds of the host agent (R20). State at reset, and the reasons a step can stop. -/

namespace Sys2Proof.Machine

/-- `STATUS.ERR`: the five codes ever produced (10_state.md R31; codes 5 to 15 do not exist here, 93 U7). -/
inductive ErrCode where
  | none
  | invalidKey
  | invalidArgument
  | noKey
  | illegalCommand
deriving DecidableEq, Repr

/-- STATUS by its fields (10_state.md R30); the reserved bits have no storage and read 0. -/
structure Status where
  busy   : Bool
  kvalid : Bool
  stDone : Bool
  stPass : Bool
  err    : ErrCode
deriving DecidableEq, Repr

/-- KINFO by its fields (10_state.md R35); the reserved bits have no storage and read 0. -/
structure KInfo where
  nr : BitVec 5
  nb : BitVec 4
  nk : BitVec 4
deriving DecidableEq, Repr

/-- The session-key store: one slot (10_state.md R35, R36). -/
structure SessionKey where
  kinfo : KInfo
  ek    : Vector Word 120
  dk    : Vector Word 120
deriving DecidableEq, Repr

/-- The way of a host access. -/
inductive Direction where
  | read
  | write
deriving DecidableEq, Repr

/-- What a host access does: read, or write a value. -/
inductive AccessKind where
  | read
  | write (v : Word)
deriving DecidableEq, Repr

/-- The shape of a host access: one transfer of some bytes, or a burst of transfers. A burst is "any other width"
whatever its total is (20_memory.md R63; log entry 9). -/
inductive Width where
  | single (bytes : Nat)
  | burst (beats bytes : Nat)
deriving DecidableEq, Repr

/-- One host access on the bus (00_scope.md R13 `MemRead`, `MemWrite`): its bus address, its width and what it does.
The value of a write that is not 32 bits wide reaches no register and is not represented (log entry 9). -/
structure Access where
  addr  : Nat
  width : Width
  kind  : AccessKind
deriving DecidableEq, Repr

/-- What the outside does next: a bus access, the polling loop `WAIT` of 30_encoding.md R99, or the reset input of
70_reset_and_hazards.md R240. DESIGN CHOICE (log entry 19): an assertion of reset, from its start to its release, is one
input; R240 does not say what a host access made during it gets or does, and no access of the model falls into it. -/
inductive Input where
  | access (a : Access)
  | wait
  | reset
deriving DecidableEq, Repr

/-- The state. From `status` to `pending` it is the architectural state of 10_state.md R21 (ID, CAP, S, Si and rcon are
constants); from `inputs` on it is the model's own: the host agent and the order of the two agents (log entries 2, 3). -/
structure State where
  status   : Status
  kinfo    : KInfo
  key      : Vector Word 8
  din      : Vector Word 8
  dout     : Vector Word 8
  ek       : Vector Word 120
  dk       : Vector Word 120
  pending  : Word
  /-- What the host does next, first things first. -/
  inputs   : List Input
  /-- The (offset, value) of every read performed, the newest first (70_reset_and_hazards.md R252). -/
  returned : List (Nat × Word)
  /-- A command was accepted and no read of STATUS has returned BUSY = 0 since (70_reset_and_hazards.md R245, R252). -/
  awaiting : Bool
  /-- How many commands were accepted: it makes the free value of log entry 2 a fresh one at each accept. -/
  accepted : Nat
  /-- How many more host inputs go before the pending command completes (log entry 2). -/
  hold     : Nat
deriving DecidableEq, Repr

/-- KINFO, EK and DK when no key is held: all zero (10_state.md R33). -/
def SessionKey.empty : SessionKey :=
  { kinfo := { nr := 0, nb := 0, nk := 0 }, ek := Vector.replicate 120 0, dk := Vector.replicate 120 0 }

/-- The machine right after reset: every register 0 (10_state.md R21; 70_reset_and_hazards.md R240).
DESIGN CHOICE (log entry 10): the model's own fields start with no input, no read, no command. -/
def State.reset : State where
  status   := { busy := false, kvalid := false, stDone := false, stPass := false, err := .none }
  kinfo    := { nr := 0, nb := 0, nk := 0 }
  key      := Vector.replicate 8 0
  din      := Vector.replicate 8 0
  dout     := Vector.replicate 8 0
  ek       := Vector.replicate 120 0
  dk       := Vector.replicate 120 0
  pending  := 0
  inputs   := []
  returned := []
  awaiting := false
  accepted := 0
  hold     := 0

/-- Why a step stops. Each is safe: the model stops where the hardware may go on. -/
inductive Fault where
  /-- Raised by a host access that is not one 32-bit transfer at a multiple of 4 (20_memory.md R63; 60_exceptions.md R214):
  the core answers with a bus error and changes no state. Safe. -/
  | busError (offset : Nat) (width : Width) (direction : Direction)
  /-- Raised by a host access other than a 32-bit read of ID, CAP or STATUS while BUSY = 1 (60_exceptions.md R215):
  the hardware's behaviour is not defined. Safe. -/
  | protocolViolation (offset : Nat) (direction : Direction)
  /-- Raised by a host access whose bus address lies outside the window (20_memory.md R60): no address of this core.
  DESIGN CHOICE, log entry 4. Safe. -/
  | outsideWindow (addr : Nat) (direction : Direction)
deriving DecidableEq, Repr

/-- Why an instruction has no meaning. -/
inductive Refusal where
  /-- The instruction is not modelled yet; raised by exec's arms alone, and by none of them now. Safe. -/
  | notModelled (mnemonic : String)
deriving DecidableEq, Repr

end Sys2Proof.Machine
end

