-- ==== Sys2Proof/Machine/Bytes.lean ====
section
/-! DEFINITION. Bytes, words and columns: the one big-endian packing (00_scope.md R12, 20_memory.md R67), the byte view
of a buffer (10_state.md R23), and register files filled from a list. -/

namespace Sys2Proof.Machine

/-- Four bytes, in the order of a word's big-endian packing: a word taken apart, or one column of the cipher state, whose
row r holds byte `ar` (00_scope.md R12, R14). -/
structure Column where
  a0 : Byte
  a1 : Byte
  a2 : Byte
  a3 : Byte
deriving DecidableEq, Repr

/-- `b2w`: byte b0 is bits 31:24 and byte b3 is bits 7:0 (00_scope.md R12). -/
def b2w (b0 b1 b2 b3 : Byte) : Word := b0 ++ b1 ++ b2 ++ b3

/-- `w2b`: the four bytes of a word, the most significant first (00_scope.md R12). -/
def w2b (w : Word) : Column :=
  ⟨w.extractLsb' 24 8, w.extractLsb' 16 8, w.extractLsb' 8 8, w.extractLsb' 0 8⟩

/-- A column read as a word (00_scope.md R14). -/
def Column.word (c : Column) : Word := b2w c.a0 c.a1 c.a2 c.a3

/-- A byte function on every byte of a column. -/
def Column.map (f : Byte → Byte) (c : Column) : Column := ⟨f c.a0, f c.a1, f c.a2, f c.a3⟩

/-- Bytewise `xor` of two columns. -/
def Column.xor (c d : Column) : Column := ⟨c.a0 ^^^ d.a0, c.a1 ^^^ d.a1, c.a2 ^^^ d.a2, c.a3 ^^^ d.a3⟩

/-- Word i of a register file; the callers stay below n, and above it the value is 0. -/
def wordAt {n : Nat} (v : Vector Word n) (i : Nat) : Word := (v[i]?).getD 0

/-- A register file of n words filled from a list: word i, and 0 above the list's end (10_state.md R36,
42_block.md R175). -/
def wordsOf (n : Nat) (ws : List Word) : Vector Word n :=
  ⟨((List.range n).map fun i => ws.getD i 0).toArray, by simp⟩

/-- Byte i of a buffer: `BUF[i div 4][31 - 8*(i mod 4) : 24 - 8*(i mod 4)]` (10_state.md R23). -/
def bufferByte (buf : Vector Word 8) (i : Nat) : Byte :=
  (wordAt buf (i / 4)).extractLsb' (24 - 8 * (i % 4)) 8

/-- The first n bytes of a buffer: `KEYB(0..klen-1)`, `DINB(0..blen-1)` (10_state.md R23). -/
def bufferBytes (buf : Vector Word 8) (n : Nat) : List Byte := (List.range n).map (bufferByte buf)

/-- Bytes 4i..4i+3 of a byte string, as a column (40_datapath.md R119). -/
def bytesColumn (bs : List Byte) (i : Nat) : Column :=
  ⟨bs.getD (4 * i) 0, bs.getD (4 * i + 1) 0, bs.getD (4 * i + 2) 0, bs.getD (4 * i + 3) 0⟩

/-- Word i of a byte string: `b2w` of its bytes 4i..4i+3 (41_makekey.md R152). -/
def bytesWord (bs : List Byte) (i : Nat) : Word := (bytesColumn bs i).word

end Sys2Proof.Machine
end

