-- ==== Sys2Proof/Machine/Field.lean ====
section
/-! DEFINITION. Arithmetic in GF(2^8) modulo 0x11B (40_datapath.md R110 to R113). Addition is `^^^`. -/

namespace Sys2Proof.Machine

/-- The reduction polynomial x^8 + x^4 + x^3 + x + 1 (00_scope.md R3, 40_datapath.md R110). -/
def reductionPolynomial : BitVec 9 := 0x11B

/-- The loop of 40_datapath.md R111: `acc` of 8 bits, `t` of 9 bits, `u` of 8 bits, and how often it still runs. -/
def mulLoop : Nat → Byte → BitVec 9 → Byte → Byte
  | 0, acc, _, _ => acc
  | n + 1, acc, t, u =>
    let shifted := t <<< 1
    mulLoop n
      (if u.getLsbD 0 then acc ^^^ t.extractLsb' 0 8 else acc)
      (if shifted.getLsbD 8 then shifted ^^^ reductionPolynomial else shifted)
      (u >>> 1)

/-- GF(2^8) multiplication: shift and reduce, eight steps (40_datapath.md R111). -/
def mul (a b : Byte) : Byte := mulLoop 8 0 (a.setWidth 9) b

/-- Field doubling (40_datapath.md R113). -/
def xtime (a : Byte) : Byte := mul a 0x02

end Sys2Proof.Machine
end

