-- ==== Sys2Proof/Machine/Datapath.lean ====
section
/-! DEFINITION. The round transforms on the 4 x NB state, and the word helpers of the key schedule
(40_datapath.md R119 to R133). -/

namespace Sys2Proof.Machine

/-- The cipher state: its NB columns from the left (00_scope.md R14). Byte `s[r][c]` is row r of column c. -/
abbrev CipherState := List Column

/-- Column c of the state; c is below NB. -/
def CipherState.column (s : CipherState) (c : Nat) : Column := s.getD c ⟨0, 0, 0, 0⟩

/-- A block of 4*NB bytes loaded column by column: `s[r][c] = in[4c + r]` (40_datapath.md R119). -/
def loadState (nb : Nat) (bs : List Byte) : CipherState := (List.range nb).map (bytesColumn bs)

/-- The state stored back to bytes: `out[4c + r] = s[r][c]` (40_datapath.md R119). -/
def storeState (s : CipherState) : List Byte := s.flatMap fun c => [c.a0, c.a1, c.a2, c.a3]

/-- SubBytes (40_datapath.md R120). -/
def subBytes (s : CipherState) : CipherState := s.map (Column.map sbox)

/-- InvSubBytes (40_datapath.md R120). -/
def invSubBytes (s : CipherState) : CipherState := s.map (Column.map invSbox)

/-- The row-shift offset `C_r` for a block of NB words (40_datapath.md R121). -/
def shiftOffset (nb r : Nat) : Nat :=
  match r with
  | 0 => 0
  | 1 => 1
  | 2 => if nb = 8 then 3 else 2
  | _ => if nb = 8 then 4 else 3

/-- ShiftRows: `s'[r][c] = s[r][(c + C_r) mod NB]` (40_datapath.md R122). -/
def shiftRows (nb : Nat) (s : CipherState) : CipherState :=
  (List.range nb).map fun c =>
    ⟨(s.column ((c + shiftOffset nb 0) % nb)).a0, (s.column ((c + shiftOffset nb 1) % nb)).a1,
     (s.column ((c + shiftOffset nb 2) % nb)).a2, (s.column ((c + shiftOffset nb 3) % nb)).a3⟩

/-- InvShiftRows: `s'[r][c] = s[r][(c + NB - C_r) mod NB]` (40_datapath.md R123). -/
def invShiftRows (nb : Nat) (s : CipherState) : CipherState :=
  (List.range nb).map fun c =>
    ⟨(s.column ((c + nb - shiftOffset nb 0) % nb)).a0, (s.column ((c + nb - shiftOffset nb 1) % nb)).a1,
     (s.column ((c + nb - shiftOffset nb 2) % nb)).a2, (s.column ((c + nb - shiftOffset nb 3) % nb)).a3⟩

/-- MixColumns on one column (40_datapath.md R124). -/
def mixColumn (c : Column) : Column where
  a0 := mul 0x02 c.a0 ^^^ mul 0x03 c.a1 ^^^ c.a2 ^^^ c.a3
  a1 := c.a0 ^^^ mul 0x02 c.a1 ^^^ mul 0x03 c.a2 ^^^ c.a3
  a2 := c.a0 ^^^ c.a1 ^^^ mul 0x02 c.a2 ^^^ mul 0x03 c.a3
  a3 := mul 0x03 c.a0 ^^^ c.a1 ^^^ c.a2 ^^^ mul 0x02 c.a3

/-- InvMixColumns on one column (40_datapath.md R125). -/
def invMixColumn (c : Column) : Column where
  a0 := mul 0x0E c.a0 ^^^ mul 0x0B c.a1 ^^^ mul 0x0D c.a2 ^^^ mul 0x09 c.a3
  a1 := mul 0x09 c.a0 ^^^ mul 0x0E c.a1 ^^^ mul 0x0B c.a2 ^^^ mul 0x0D c.a3
  a2 := mul 0x0D c.a0 ^^^ mul 0x09 c.a1 ^^^ mul 0x0E c.a2 ^^^ mul 0x0B c.a3
  a3 := mul 0x0B c.a0 ^^^ mul 0x0D c.a1 ^^^ mul 0x09 c.a2 ^^^ mul 0x0E c.a3

/-- MixColumns (40_datapath.md R124). -/
def mixColumns (s : CipherState) : CipherState := s.map mixColumn

/-- InvMixColumns (40_datapath.md R125). -/
def invMixColumns (s : CipherState) : CipherState := s.map invMixColumn

/-- AddRoundKey for a round key of NB words (40_datapath.md R127). -/
def addRoundKey (s : CipherState) (k : List Word) : CipherState := s.zipWith (fun c w => w2b (c.word ^^^ w)) k

/-- `IMCW`: InvMixColumns of one word taken as a column (40_datapath.md R128). -/
def imcw (w : Word) : Word := (invMixColumn (w2b w)).word

/-- `NR(NK, NB) = max(NK, NB) + 6` (40_datapath.md R131). -/
def roundCount (nk nb : Nat) : Nat := max nk nb + 6

/-- `RotWord(w) = {w[23:0], w[31:24]}` (40_datapath.md R132). -/
def rotWord (w : Word) : Word := w.extractLsb' 0 24 ++ w.extractLsb' 24 8

/-- `SubWord`: S on each byte of the word (40_datapath.md R133). -/
def subWord (w : Word) : Word := ((w2b w).map sbox).word

end Sys2Proof.Machine
end

