-- ==== Sys2Proof/Machine/Flags.lean ====
section
/-! DEFINITION. The flags: STATUS and KINFO as the words the host reads (10_state.md R30, R31, R35), and every update of
STATUS (R42). -/

namespace Sys2Proof.Machine

/-- The four-bit code of `STATUS.ERR` (10_state.md R31). -/
def ErrCode.code : ErrCode → BitVec 4
  | .none => 0
  | .invalidKey => 1
  | .invalidArgument => 2
  | .noKey => 3
  | .illegalCommand => 4

/-- STATUS as the host reads it: BUSY bit 0, KVALID bit 1, ST_DONE bit 2, ST_PASS bit 3, ERR bits 11:8, the rest 0
(10_state.md R30). -/
def Status.word (st : Status) : Word :=
  (0 : BitVec 20) ++ st.err.code ++ (0 : BitVec 4) ++ BitVec.ofBool st.stPass ++ BitVec.ofBool st.stDone
    ++ BitVec.ofBool st.kvalid ++ BitVec.ofBool st.busy

/-- KINFO as the host reads it: NR bits 4:0, NB bits 11:8, NK bits 19:16, the rest 0 (10_state.md R35). -/
def KInfo.word (k : KInfo) : Word :=
  (0 : BitVec 12) ++ k.nk ++ (0 : BitVec 4) ++ k.nb ++ (0 : BitVec 3) ++ k.nr

/-- STATUS at the accept of a command: BUSY ← 1, ERR ← 0 (43_control.md R190). -/
def Status.accept (st : Status) : Status := { st with busy := true, err := .none }

/-- STATUS at the completion of a command: BUSY ← 0 and the command's error code (43_control.md R190; 10_state.md R42). -/
def Status.complete (err : ErrCode) (st : Status) : Status := { st with busy := false, err := err }

/-- KVALID ← v: 1 by a successful MAKEKEY, 0 by ZEROIZE (10_state.md R33). -/
def Status.setKvalid (v : Bool) (st : Status) : Status := { st with kvalid := v }

/-- ST_DONE ← 1 and ST_PASS ← the self-test's result (10_state.md R34; 43_control.md R192). -/
def Status.cacheSelfTest (result : Bool) (st : Status) : Status := { st with stDone := true, stPass := result }

end Sys2Proof.Machine
end

