-- ==== Sys2Proof/Config.lean ====
section
/-! DEFINITION. What the spec leaves open for this hardware: constants with no body, so that no proof can see a value. -/

namespace Sys2Proof

/-- Which 4096-byte frame of the platform's map holds the register window.
`BASE` is OPEN and a multiple of 4096 (20_memory.md R60; 92_eei_decisions.md D2). Log entry 1. -/
opaque Config.baseFrame : Nat

/-- `BASE`, the bus address of offset 0x000 of the window (20_memory.md R60). -/
def Config.base : Nat := 4096 * Config.baseFrame

/-- DESIGN CHOICE (log entry 2): where the completion of a command falls among the host's accesses.
A command accepted in a state (its word in `pending`) completes after this many further host inputs, or as soon as the
host has none left. It stands for the OPEN latencies `LAT_*` of 70_reset_and_hazards.md R250: finite, so completion is
weakly fair, and otherwise unknown. It may depend on the command, on key and data values (R251) and on `accepted`, which
no two commands share; so a claim holds for every interleaving that 60_exceptions.md R218 allows. -/
opaque Config.inputsBeforeCompletion : Machine.State → Nat

end Sys2Proof
end

