-- ==== Sys2Proof/Machine/Operands.lean ====
section
/-! DEFINITION. The operand forms: the registers of the window and their offsets (20_memory.md R61), bus addresses (R60),
and the lengths a command takes (00_scope.md R9). -/

namespace Sys2Proof.Machine

/-- What stands at a word offset of the window (20_memory.md R61). -/
inductive Reg where
  | id
  | cap
  | cmd
  | status
  | kinfo
  | key (i : Nat)
  | din (i : Nat)
  | dout (i : Nat)
  | ek (w : Nat)
  | dk (w : Nat)
  | reserved
deriving DecidableEq, Repr

/-- The address map of 20_memory.md R61, for an offset that is a multiple of 4. -/
def Reg.atOffset (off : Nat) : Reg :=
  if off = 0x000 then .id
  else if off = 0x004 then .cap
  else if off = 0x008 then .cmd
  else if off = 0x00C then .status
  else if off = 0x010 then .kinfo
  else if 0x040 ≤ off ∧ off ≤ 0x05C then .key ((off - 0x040) / 4)
  else if 0x080 ≤ off ∧ off ≤ 0x09C then .din ((off - 0x080) / 4)
  else if 0x0C0 ≤ off ∧ off ≤ 0x0DC then .dout ((off - 0x0C0) / 4)
  else if 0x400 ≤ off ∧ off ≤ 0x5DC then .ek ((off - 0x400) / 4)
  else if 0x600 ≤ off ∧ off ≤ 0x7DC then .dk ((off - 0x600) / 4)
  else .reserved

/-- The offset of CMD (20_memory.md R61). -/
def cmdOffset : Nat := 0x008

/-- The offset of STATUS (20_memory.md R61). -/
def statusOffset : Nat := 0x00C

/-- The size of the window in bytes (20_memory.md R60). -/
def windowSize : Nat := 4096

/-- The byte offset of a bus address in the window, or none outside it (20_memory.md R60). -/
def windowOffset (addr : Nat) : Option Nat :=
  if Config.base ≤ addr ∧ addr < Config.base + windowSize then some (addr - Config.base) else none

/-- ID is hardwired to the ASCII bytes "RIJN" (10_state.md R27). -/
def idValue : Word := 0x52494A4E

/-- CAP is hardwired: block sizes 16, 24, 32 in bits 2:0, key sizes 16, 24, 32 in bits 10:8 (10_state.md R28). -/
def capValue : Word := 0x00000707

/-- The one width the window answers: a single 32-bit transfer (20_memory.md R62, R63). -/
abbrev Width.word : Width := .single 4

/-- The way of an access (60_exceptions.md R214: `read_or_write`). -/
def AccessKind.direction : AccessKind → Direction
  | .read => .read
  | .write _ => .write

/-- The lengths supported for keys and for blocks, in bytes, in ascending order (00_scope.md R9). -/
def supportedSizes : List Nat := [16, 24, 32]

/-- A length MAKEKEY accepts: 16, 24 or 32 bytes (41_makekey.md R151). -/
abbrev SupportedSize (n : Nat) : Prop := n ∈ supportedSizes

end Sys2Proof.Machine
end

