-- ==== Sys2Proof/Machine/Ops.lean ====
section
/-! DEFINITION. The named operations over the registers: reading and writing the window, the accept and the completion of a
command (43_control.md R190), and what a completion installs or clears. -/

namespace Sys2Proof.Machine

/-- The session-key store as one slot (10_state.md R36). -/
def State.sessionKey (s : State) : SessionKey := { kinfo := s.kinfo, ek := s.ek, dk := s.dk }

/-- The value a 32-bit read of a register returns (20_memory.md R61, R64, R66). -/
def readReg (r : Reg) (s : State) : Word :=
  match r with
  | .id => idValue
  | .cap => capValue
  | .cmd => 0
  | .status => s.status.word
  | .kinfo => s.kinfo.word
  | .key i => wordAt s.key i
  | .din i => wordAt s.din i
  | .dout i => wordAt s.dout i
  | .ek w => wordAt s.ek w
  | .dk w => wordAt s.dk w
  | .reserved => 0

/-- The accept step: `PENDING <- v; STATUS.BUSY <- 1; STATUS.ERR <- 0` (43_control.md R190). `hold` is how many host
inputs go before the completion. -/
def acceptWith (hold : Nat) (v : Word) (s : State) : State :=
  { s with status := s.status.accept, pending := v, awaiting := true, accepted := s.accepted + 1, hold := hold }

/-- The accept step of a host's write to CMD; when its completion comes is free (70_reset_and_hazards.md R250, log entry 2). -/
def accept (v : Word) (s : State) : State := acceptWith (Config.inputsBeforeCompletion { s with pending := v }) v s

/-- Register i of a buffer written. -/
def setWord (buf : Vector Word 8) (i : Nat) (v : Word) : Vector Word 8 := buf.setIfInBounds i v

/-- The effect of a 32-bit write to a register: KEY and DIN take it, CMD accepts it, everything else ignores it
(20_memory.md R61, R64, R65). -/
def writeReg (r : Reg) (v : Word) (s : State) : State :=
  match r with
  | .key i => { s with key := setWord s.key i v }
  | .din i => { s with din := setWord s.din i v }
  | .cmd => accept v s
  | .id => s
  | .cap => s
  | .status => s
  | .kinfo => s
  | .dout _ => s
  | .ek _ => s
  | .dk _ => s
  | .reserved => s

/-- The end of every completion step: ERR and `STATUS.BUSY <- 0` (43_control.md R190). The core has no trap entry
(60_exceptions.md R220): completing with a code other than NONE is all that reporting an error does, and it changes
nothing else (R212). -/
def complete (err : ErrCode) (s : State) : State := { s with status := s.status.complete err }

/-- A session key installed whole: EK, DK, KINFO and `KVALID <- 1` (41_makekey.md R157). -/
def installKey (k : SessionKey) (s : State) : State :=
  { s with status := s.status.setKvalid true, kinfo := k.kinfo, ek := k.ek, dk := k.dk }

/-- `WriteOut(out, blen)`: the output block in DOUT's first bytes, 0 in the others (42_block.md R175). -/
def writeOut (out : List Byte) (s : State) : State :=
  { s with dout := wordsOf 8 ((List.range 8).map (bytesWord out)) }

/-- The self-test's cached result (43_control.md R192). -/
def cacheSelfTest (result : Bool) (s : State) : State := { s with status := s.status.cacheSelfTest result }

/-- KEY, DIN, DOUT and the session-key store cleared, `KVALID <- 0` (43_control.md R196). -/
def clearMaterial (s : State) : State :=
  { s with
    status := s.status.setKvalid false
    kinfo := SessionKey.empty.kinfo
    key := Vector.replicate 8 0
    din := Vector.replicate 8 0
    dout := Vector.replicate 8 0
    ek := SessionKey.empty.ek
    dk := SessionKey.empty.dk }

/-- The reset input: every register at its reset value, a pending command abandoned (70_reset_and_hazards.md R240).
What the host still has to do, what it has read and the count of free values stay (log entry 12). DESIGN CHOICE
(log entry 19): the result is the state at the release of reset; no access is made while it is asserted. -/
def resetCore (s : State) : State :=
  { State.reset with inputs := s.inputs, returned := s.returned, accepted := s.accepted }

/-- The host takes note of a read; a STATUS with BUSY = 0 ends its wait (70_reset_and_hazards.md R245). -/
def noteRead (off : Nat) (v : Word) (s : State) : State :=
  { s with
    returned := (off, v) :: s.returned
    awaiting := s.awaiting && !(off == statusOffset && !v.getLsbD 0) }

/-- One host input goes: `rest` stays, and a pending command is one input nearer to its completion (log entry 2). -/
def advance (rest : List Input) (s : State) : State := { s with inputs := rest, hold := s.hold - 1 }

end Sys2Proof.Machine
end

