-- ==== Sys2Proof/Machine/KeySchedule.lean ====
section
/-! DEFINITION. The key schedule and MAKEKEY (41_makekey.md). -/

namespace Sys2Proof.Machine

/-- The user key read as NK big-endian words (41_makekey.md R152). -/
def keyWords (key : List Byte) (nk : Nat) : List Word := (List.range nk).map (bytesWord key)

/-- Round-key word `W[i]` for i ≥ NK (41_makekey.md R153). `prior` holds `W[i-1], W[i-2], …, W[0]`. -/
def nextWord (nk i : Nat) (prior : List Word) : Word :=
  let temp := prior.getD 0 0
  prior.getD (nk - 1) 0 ^^^
    (if i % nk = 0 then subWord (rotWord temp) ^^^ (rcon (i / nk - 1) ++ (0 : BitVec 24))
     else if nk = 8 ∧ i % nk = 4 then subWord temp
     else temp)

/-- The loop of 41_makekey.md R153: `n` more words, the next of them `W[i]`; the words are kept newest first. -/
def expandLoop (nk : Nat) : Nat → Nat → List Word → List Word
  | 0, _, prior => prior
  | n + 1, i, prior => expandLoop nk n (i + 1) (nextWord nk i prior :: prior)

/-- `Expand(key, NK, NB, NR)`: the N = (NR+1)*NB round-key words (41_makekey.md R153). -/
def expand (key : List Byte) (nk nb nr : Nat) : List Word :=
  (expandLoop nk ((nr + 1) * nb - nk) nk (keyWords key nk).reverse).reverse

/-- Round key r of a schedule: its NB words at flat index `r*NB + c` (10_state.md R36). -/
def roundKey (schedule : Vector Word 120) (nb r : Nat) : List Word :=
  (List.range nb).map fun c => wordAt schedule (r * nb + c)

/-- `InvertSchedule(EK, NR, NB)`: the round keys in reverse order, all but the first and the last passed through IMCW
(41_makekey.md R155). -/
def invertSchedule (ek : Vector Word 120) (nr nb : Nat) : List Word :=
  (List.range (nr + 1)).flatMap fun r =>
    if r = 0 ∨ r = nr then roundKey ek nb (nr - r) else (roundKey ek nb (nr - r)).map imcw

/-- The session key of a user key of NK words for blocks of NB words (41_makekey.md R150, R154, R155; unused flat words
0, 10_state.md R36). -/
def makeSessionKey (key : List Byte) (nk nb : Nat) : SessionKey :=
  let nr := roundCount nk nb
  let ek := wordsOf 120 (expand key nk nb nr)
  { kinfo := { nr := BitVec.ofNat 5 nr, nb := BitVec.ofNat 4 nb, nk := BitVec.ofNat 4 nk }
    ek := ek
    dk := wordsOf 120 (invertSchedule ek nr nb) }

/-- `MAKEKEY klen, blen` (41_makekey.md R150, R151, R158). -/
def execMakekey (klen blen : Nat) (s : State) : Host.Outcome State Fault Refusal :=
  if ¬ SupportedSize klen then .next (complete .invalidKey s)
  else if ¬ SupportedSize blen then .next (complete .invalidArgument s)
  else
    .next (complete .none
      (installKey (makeSessionKey (bufferBytes s.key klen) (klen / 4) (blen / 4)) s))

end Sys2Proof.Machine
end

