-- ==== Sys2Proof/Machine/Block.lean ====
section
/-! DEFINITION. The block cipher, ENCRYPT and DECRYPT (42_block.md). -/

namespace Sys2Proof.Machine

/-- One full encryption round with round key k (42_block.md R171). -/
def encryptRound (nb : Nat) (s : CipherState) (k : List Word) : CipherState :=
  addRoundKey (mixColumns (shiftRows nb (subBytes s))) k

/-- The final encryption round, which "omits column mixing" (42_block.md R171). -/
def encryptFinalRound (nb : Nat) (s : CipherState) (k : List Word) : CipherState :=
  addRoundKey (shiftRows nb (subBytes s)) k

/-- `Cipher(in, EK, NR, NB)` (42_block.md R171). -/
def cipher (bs : List Byte) (ek : Vector Word 120) (nr nb : Nat) : List Byte :=
  let whitened := addRoundKey (loadState nb bs) (roundKey ek nb 0)
  let rounds := (List.range' 1 (nr - 1)).foldl (fun s r => encryptRound nb s (roundKey ek nb r)) whitened
  storeState (encryptFinalRound nb rounds (roundKey ek nb nr))

/-- One full decryption round with round key k (42_block.md R173). -/
def decryptRound (nb : Nat) (s : CipherState) (k : List Word) : CipherState :=
  addRoundKey (invMixColumns (invShiftRows nb (invSubBytes s))) k

/-- The final decryption round (42_block.md R173). -/
def decryptFinalRound (nb : Nat) (s : CipherState) (k : List Word) : CipherState :=
  addRoundKey (invShiftRows nb (invSubBytes s)) k

/-- `InvCipher(in, DK, NR, NB)` (42_block.md R173). -/
def invCipher (bs : List Byte) (dk : Vector Word 120) (nr nb : Nat) : List Byte :=
  let whitened := addRoundKey (loadState nb bs) (roundKey dk nb 0)
  let rounds := (List.range' 1 (nr - 1)).foldl (fun s r => decryptRound nb s (roundKey dk nb r)) whitened
  storeState (decryptFinalRound nb rounds (roundKey dk nb nr))

/-- What ENCRYPT and DECRYPT share: NO_KEY first, then a block length that is not the key's, else `transform` of the first
blen bytes of DIN goes to DOUT (42_block.md R170, R172; 60_exceptions.md R217). -/
def blockCommand (transform : List Byte → List Byte) (blen : Nat) (s : State) : Host.Outcome State Fault Refusal :=
  if s.status.kvalid = false then .next (complete .noKey s)
  else if blen ≠ 4 * s.kinfo.nb.toNat then .next (complete .invalidArgument s)
  else .next (complete .none (writeOut (transform (bufferBytes s.din blen)) s))

/-- `ENCRYPT blen` (42_block.md R170). -/
def execEncrypt (blen : Nat) (s : State) : Host.Outcome State Fault Refusal :=
  blockCommand (fun bs => cipher bs s.ek s.kinfo.nr.toNat s.kinfo.nb.toNat) blen s

/-- `DECRYPT blen` (42_block.md R172). -/
def execDecrypt (blen : Nat) (s : State) : Host.Outcome State Fault Refusal :=
  blockCommand (fun bs => invCipher bs s.dk s.kinfo.nr.toNat s.kinfo.nb.toNat) blen s

end Sys2Proof.Machine
end

