-- ==== Sys2Proof/Machine/Control.lean ====
section
/-! DEFINITION. NOP, SELFTEST and ZEROIZE, and the completion of an illegal word (43_control.md). -/

namespace Sys2Proof.Machine

/-- The bytes 0, 1, …, n-1: the self-test's key and block patterns (43_control.md R193). -/
def patternBytes (n : Nat) : List Byte := (List.range n).map (BitVec.ofNat 8)

/-- Does decrypting c under k give p (43_control.md R193)? -/
def decryptsTo (k : SessionKey) (c p : List Byte) : Bool :=
  invCipher c k.dk k.kinfo.nr.toNat k.kinfo.nb.toNat == p

/-- The symmetry check of one pair of sizes (43_control.md R193). -/
def symmetryCheck (klen blen : Nat) : Bool :=
  let k := makeSessionKey (patternBytes klen) (klen / 4) (blen / 4)
  let p := patternBytes blen
  decryptsTo k (cipher p k.ek k.kinfo.nr.toNat k.kinfo.nb.toNat) p

/-- The KAT key: 32 bytes, byte 11 is 0x01, the others 0x00 (43_control.md R193). -/
def katKey : List Byte :=
  [0x00, 0x00, 0x00, 0x00, 0x00, 0x00, 0x00, 0x00, 0x00, 0x00, 0x00, 0x01, 0x00, 0x00, 0x00, 0x00]
    ++ List.replicate 16 0x00

/-- The KAT plaintext: 16 zero bytes (43_control.md R193). -/
def katPlaintext : List Byte := List.replicate 16 0x00

/-- The KAT ciphertext (43_control.md R193). -/
def katCiphertext : List Byte :=
  [0xE4, 0x44, 0x29, 0x47, 0x4D, 0x6F, 0xC3, 0x08, 0x4E, 0xB2, 0xA6, 0xB8, 0xB4, 0x6A, 0xF7, 0x54]

/-- The known-answer check, both ways (43_control.md R193). -/
def katCheck : Bool :=
  let k := makeSessionKey katKey 8 4
  let c := cipher katPlaintext k.ek k.kinfo.nr.toNat k.kinfo.nb.toNat
  c == katCiphertext && decryptsTo k c katPlaintext

/-- `SelfTestResult()` (43_control.md R193): every symmetry check and the known-answer check hold. It works on scratch
copies: it reads no state (R194). -/
def selfTestResult : Bool :=
  (supportedSizes.all fun klen => supportedSizes.all fun blen => symmetryCheck klen blen) && katCheck

/-- `NOP` (43_control.md R191). -/
def execNop (s : State) : Host.Outcome State Fault Refusal := .next (complete .none s)

/-- `SELFTEST` (43_control.md R192): the test runs at the first completion since reset only. -/
def execSelftest (s : State) : Host.Outcome State Fault Refusal :=
  .next (complete .none (if s.status.stDone then s else cacheSelfTest selfTestResult s))

/-- `ZEROIZE` (43_control.md R196). -/
def execZeroize (s : State) : Host.Outcome State Fault Refusal := .next (complete .none (clearMaterial s))

/-- The completion of a word that decodes to ILLEGAL (30_encoding.md R96; 43_control.md R198). -/
def completeIllegal (s : State) : State := complete .illegalCommand s

end Sys2Proof.Machine
end

