-- ==== Sys2Proof/Machine/Dispatch.lean ====
section
/-! DEFINITION. One arm per command: the completion step's rule for it (43_control.md R190). -/

namespace Sys2Proof.Machine

/-- The completion step of a decoded command, `STATUS.BUSY <- 0` included (43_control.md R190). -/
def exec (i : Instr) (s : State) : Host.Outcome State Fault Refusal :=
  match i with
  | .nop => Sys2Proof.Machine.execNop s
  | .makekey klen blen => Sys2Proof.Machine.execMakekey klen blen s
  | .encrypt blen => Sys2Proof.Machine.execEncrypt blen s
  | .decrypt blen => Sys2Proof.Machine.execDecrypt blen s
  | .selftest => Sys2Proof.Machine.execSelftest s
  | .zeroize => Sys2Proof.Machine.execZeroize s

end Sys2Proof.Machine
end

