-- ==== Sys2Proof/Machine/CoreAgent.lean ====
section
/-! DEFINITION. The core agent: its completion step (43_control.md R190) and when it takes it (70_reset_and_hazards.md R250). -/

namespace Sys2Proof.Machine

/-- `CoreStep()`: decode PENDING and perform the command's rule (43_control.md R190). An ILLEGAL word completes with
ERR = 4 (R198). -/
def coreStep (s : State) : Host.Outcome State Fault Refusal :=
  match decode s.pending with
  | .ok i => exec i s
  | .error _ => .next (completeIllegal s)

/-- The core acts next: a command is pending (10_state.md R20), and no host input is to go before its completion
(log entry 2). -/
def coreTurn (s : State) : Bool := s.status.busy && (s.hold == 0 || s.inputs.isEmpty)

end Sys2Proof.Machine
end

