-- ==== Sys2Proof/Machine/HostAgent.lean ====
section
/-! DEFINITION. The host agent: one access to the window with its checks (60_exceptions.md R218), the host's turn, and the
statements of host programs (30_encoding.md R99). -/

namespace Sys2Proof.Machine

/-- The accesses the host may make while BUSY = 1: reads of ID, CAP and STATUS (60_exceptions.md R215). -/
def allowedWhileBusy (r : Reg) (kind : AccessKind) : Bool :=
  match r, kind with
  | .id, .read => true
  | .cap, .read => true
  | .status, .read => true
  | _, _ => false

/-- An access that passed its checks: a read returns the register's value, a write acts on the register
(20_memory.md R68, R69). -/
def performAccess (off : Nat) (kind : AccessKind) (s : State) : State :=
  match kind with
  | .read => noteRead off (readReg (Reg.atOffset off) s) s
  | .write v => writeReg (Reg.atOffset off) v s

/-- One host access at an offset of the window: "a bus error (width or alignment) is checked first; then, if BUSY = 1, a
protocol violation; otherwise the access is performed" (60_exceptions.md R218). -/
def windowAccess (off : Nat) (width : Width) (kind : AccessKind) (s : State) : Host.Outcome State Fault Refusal :=
  if width ≠ .word ∨ off % 4 ≠ 0 then .fault (.busError off width kind.direction)
  else if s.status.busy && !allowedWhileBusy (Reg.atOffset off) kind then
    .fault (.protocolViolation off kind.direction)
  else .next (performAccess off kind s)

/-- One host access at a bus address: the window's, or no access of this core (20_memory.md R60; log entry 4). -/
def busAccess (a : Access) (s : State) : Host.Outcome State Fault Refusal :=
  match windowOffset a.addr with
  | none => .fault (.outsideWindow a.addr a.kind.direction)
  | some off => windowAccess off a.width a.kind s

/-- The host's turn: its next input goes. `WAIT` reads STATUS and stays while BUSY = 1 (30_encoding.md R99). With no input
left nothing happens: the core is idle whenever BUSY = 0 (60_exceptions.md R227; log entry 8). -/
def hostTurn (s : State) : Host.Outcome State Fault Refusal :=
  match s.inputs with
  | [] => .next s
  | .access a :: rest => busAccess a (advance rest s)
  | .wait :: rest =>
    windowAccess statusOffset .word .read (advance (if s.status.busy then .wait :: rest else rest) s)
  | .reset :: rest => .next (resetCore (advance rest s))

/-- The statements of a host program (30_encoding.md R99). A hex string is its bytes, byte 0 first (00_scope.md R11). -/
inductive HostStmt where
  | wr32 (off : Nat) (v : Word)
  | rd32 (off : Nat)
  | cmd (i : Instr)
  | wait
  | ldkey (bytes : List Byte)
  | ldin (bytes : List Byte)
  | rdout (n : Nat)
deriving DecidableEq, Repr

/-- `MemWrite(BASE + off, 4, v)` (30_encoding.md R99). -/
def writeAt (off : Nat) (v : Word) : Input := .access { addr := Config.base + off, width := .word, kind := .write v }

/-- `MemRead(BASE + off, 4)` (30_encoding.md R99). -/
def readAt (off : Nat) : Input := .access { addr := Config.base + off, width := .word, kind := .read }

/-- The host accesses a statement expands to (30_encoding.md R99); none for a command that an assembler refuses (R98).
DESIGN CHOICE (log entry 18): R99 speaks of whole 4-byte groups only, so the 1 to 3 bytes after the last whole group of
`LDKEY` or `LDIN`, and the remainder of n in `RDOUT n`, expand to no access; they are neither padded nor refused. -/
def HostStmt.inputs : HostStmt → Option (List Input)
  | .wr32 off v => some [writeAt off v]
  | .rd32 off => some [readAt off]
  | .cmd i => if i.wellFormed then some [writeAt cmdOffset (encode i)] else none
  | .wait => some [.wait]
  | .ldkey bytes => some ((List.range (bytes.length / 4)).map fun i => writeAt (0x040 + 4 * i) (bytesWord bytes i))
  | .ldin bytes => some ((List.range (bytes.length / 4)).map fun i => writeAt (0x080 + 4 * i) (bytesWord bytes i))
  | .rdout n => some ((List.range (n / 4)).map fun i => readAt (0x0C0 + 4 * i))

/-- A host program expanded, statement by statement (30_encoding.md R99). -/
def programInputs (prog : List HostStmt) : Option (List Input) :=
  match prog with
  | [] => some []
  | st :: rest => do
    let first ← st.inputs
    let others ← programInputs rest
    pure (first ++ others)

end Sys2Proof.Machine
end

