-- ==== Sys2Proof/Machine/Step.lean ====
section
/-! DEFINITION. One step: the core completes the pending command, or the host acts; never both (60_exceptions.md R218). -/

namespace Sys2Proof.Machine

/-- One step of the machine. Which agent acts while BUSY = 1 is plain data in State (log entry 2). -/
def step (s : State) : Host.Outcome State Fault Refusal :=
  if coreTurn s then coreStep s else hostTurn s

/-- The state in which the very next step runs the command word `w`: as the accept of a CMD write leaves it
(43_control.md R190), with no host input before the completion. A command reaches this machine only so: it fetches
nothing (10_state.md R26; log entry 11). -/
def State.withFetchWord (s : State) (nbits w : Nat) : State :=
  acceptWith 0 (BitVec.ofNat 32 (w % 2 ^ nbits)) s

end Sys2Proof.Machine
end

