-- ==== Sys2Proof/Machine/RoundTables.lean ====
section
/-! DEFINITION. The round tables of 40_datapath.md R129: another realisation of a round, which no access can tell apart from
the transforms; no state and read by no command of the model (log entry 7). -/

namespace Sys2Proof.Machine

/-- `Te0[x]` (40_datapath.md R129). -/
def te0 (x : Byte) : Word := b2w (mul 0x02 (sbox x)) (sbox x) (sbox x) (mul 0x03 (sbox x))

/-- `Te1..Te3`: the byte rotations of `Te0` right by 8, 16, 24 bits (40_datapath.md R129). -/
def te (k : Nat) (x : Byte) : Word := (te0 x).rotateRight (8 * k)

/-- `Td0[x]` (40_datapath.md R129). -/
def td0 (x : Byte) : Word :=
  b2w (mul 0x0E (invSbox x)) (mul 0x09 (invSbox x)) (mul 0x0D (invSbox x)) (mul 0x0B (invSbox x))

/-- `Td1..Td3`: the byte rotations of `Td0` (40_datapath.md R129). -/
def td (k : Nat) (x : Byte) : Word := (td0 x).rotateRight (8 * k)

/-- Output column c of one full encryption round in the table form (40_datapath.md R129). -/
def tableRoundColumn (nb : Nat) (s : CipherState) (k : List Word) (c : Nat) : Word :=
  te 0 (s.column c).a0 ^^^ te 1 (s.column ((c + shiftOffset nb 1) % nb)).a1
    ^^^ te 2 (s.column ((c + shiftOffset nb 2) % nb)).a2 ^^^ te 3 (s.column ((c + shiftOffset nb 3) % nb)).a3
    ^^^ k.getD c 0

end Sys2Proof.Machine
end

