-- ==== Sys2Proof/Safety.lean ====
section
/-! DEFINITION. What counts as a good state and a finished host program, in the terms the statements use. -/

namespace Sys2Proof.Machine

/-- The session-key store agrees with KVALID: with no key it is all zero (10_state.md R33), with a key it is, whole, the
session key some MAKEKEY of supported sizes made (10_state.md R35, R36, R38). -/
def KeyStoreOk (s : State) : Prop :=
  if s.status.kvalid then
    ∃ (key : List Byte) (klen blen : Nat), SupportedSize klen ∧ SupportedSize blen ∧ key.length = klen ∧
      s.sessionKey = makeSessionKey key (klen / 4) (blen / 4)
  else s.sessionKey = SessionKey.empty

/-- The invariant of the machine: the key store agrees with KVALID (10_state.md R33, R36); ST_PASS is 0 while ST_DONE = 0,
and 1 once it is 1 (10_state.md R34; 43_control.md R195); ERR is 0 while a command is pending (10_state.md R30); and a
pending command is one whose end the host has not observed (70_reset_and_hazards.md R245). -/
structure Inv (s : State) : Prop where
  keyStore : KeyStoreOk s
  selfTestCache : s.status.stPass = s.status.stDone
  noErrorWhilePending : s.status.busy = true → s.status.err = .none
  pendingIsAwaited : s.status.busy = true → s.awaiting = true

/-- The architectural registers of two states agree: all of 10_state.md R21 but STATUS, which is given apart. -/
def SameRegisters (s t : State) : Prop :=
  t.kinfo = s.kinfo ∧ t.key = s.key ∧ t.din = s.din ∧ t.dout = s.dout ∧ t.ek = s.ek ∧ t.dk = s.dk ∧ t.pending = s.pending

/-- The host agent's part of two states agrees: no command acts on it. -/
def SameHost (s t : State) : Prop :=
  t.inputs = s.inputs ∧ t.returned = s.returned ∧ t.awaiting = s.awaiting ∧ t.accepted = s.accepted ∧ t.hold = s.hold

/-- The value a 32-bit read at a word offset of the window returns. -/
def windowWord (off : Nat) (s : State) : Word := readReg (Reg.atOffset off) s

/-- A host access at an offset of the window, by its bus address (20_memory.md R60). -/
def windowInput (off : Nat) (width : Width) (kind : AccessKind) : Input :=
  .access { addr := Config.base + off, width := width, kind := kind }

/-- Byte r of a word read as a column (00_scope.md R12, R14): `w2b(w)` counted from the most significant byte. -/
def rowByte (w : Word) (r : Nat) : Byte := w.extractLsb' (24 - 8 * r) 8

/-- `C_r` for a block of NB words, as the table of 40_datapath.md R121 has it. -/
def rowShift (nb r : Nat) : Nat := if nb = 8 then [0, 1, 3, 4].getD r 0 else [0, 1, 2, 3].getD r 0

/-- The rows and columns of an encryption, round by round: `x k r c` is `s[r][c]` after round k of 42_block.md R171, from
the block `DINB(4c + r)` (40_datapath.md R119) under the round keys of `ek`. -/
structure EncryptTrace (din : Vector Word 8) (ek : Vector Word 120) (nr nb : Nat) (x : Nat → Nat → Nat → Byte) : Prop where
  initial : ∀ r < 4, ∀ c < nb, x 0 r c = bufferByte din (4 * c + r) ^^^ rowByte (wordAt ek c) r
  round : ∀ k, k + 1 < nr → ∀ c < nb,
    let y := fun r => sbox (x k r ((c + rowShift nb r) % nb))
    let w := wordAt ek ((k + 1) * nb + c)
    x (k + 1) 0 c = mul 0x02 (y 0) ^^^ mul 0x03 (y 1) ^^^ y 2 ^^^ y 3 ^^^ rowByte w 0 ∧
    x (k + 1) 1 c = y 0 ^^^ mul 0x02 (y 1) ^^^ mul 0x03 (y 2) ^^^ y 3 ^^^ rowByte w 1 ∧
    x (k + 1) 2 c = y 0 ^^^ y 1 ^^^ mul 0x02 (y 2) ^^^ mul 0x03 (y 3) ^^^ rowByte w 2 ∧
    x (k + 1) 3 c = mul 0x03 (y 0) ^^^ y 1 ^^^ y 2 ^^^ mul 0x02 (y 3) ^^^ rowByte w 3
  final : ∀ r < 4, ∀ c < nb,
    x nr r c = sbox (x (nr - 1) r ((c + rowShift nb r) % nb)) ^^^ rowByte (wordAt ek (nr * nb + c)) r

/-- The rows and columns of a decryption, round by round: `x k r c` is `s[r][c]` after round k of 42_block.md R173. -/
structure DecryptTrace (din : Vector Word 8) (dk : Vector Word 120) (nr nb : Nat) (x : Nat → Nat → Nat → Byte) : Prop where
  initial : ∀ r < 4, ∀ c < nb, x 0 r c = bufferByte din (4 * c + r) ^^^ rowByte (wordAt dk c) r
  round : ∀ k, k + 1 < nr → ∀ c < nb,
    let y := fun r => invSbox (x k r ((c + nb - rowShift nb r) % nb))
    let w := wordAt dk ((k + 1) * nb + c)
    x (k + 1) 0 c = mul 0x0E (y 0) ^^^ mul 0x0B (y 1) ^^^ mul 0x0D (y 2) ^^^ mul 0x09 (y 3) ^^^ rowByte w 0 ∧
    x (k + 1) 1 c = mul 0x09 (y 0) ^^^ mul 0x0E (y 1) ^^^ mul 0x0B (y 2) ^^^ mul 0x0D (y 3) ^^^ rowByte w 1 ∧
    x (k + 1) 2 c = mul 0x0D (y 0) ^^^ mul 0x09 (y 1) ^^^ mul 0x0E (y 2) ^^^ mul 0x0B (y 3) ^^^ rowByte w 2 ∧
    x (k + 1) 3 c = mul 0x0B (y 0) ^^^ mul 0x0D (y 1) ^^^ mul 0x09 (y 2) ^^^ mul 0x0E (y 3) ^^^ rowByte w 3
  final : ∀ r < 4, ∀ c < nb,
    x nr r c = invSbox (x (nr - 1) r ((c + nb - rowShift nb r) % nb)) ^^^ rowByte (wordAt dk (nr * nb + c)) r

/-- A host program has ended: its last statement is performed and, if it accepted a command, a later STATUS read has
returned BUSY = 0; "a program that ends with BUSY = 1 has not ended" (70_reset_and_hazards.md R252). -/
def ProgramEnded (s : State) : Prop := s.inputs = [] ∧ s.awaiting = false ∧ s.status.busy = false

/-- What a host program that ended observes: the window word by word, and what its reads returned
(70_reset_and_hazards.md R252). -/
def observation (s : State) : List Word × List (Nat × Word) :=
  ((List.range 1024).map fun i => windowWord (4 * i) s, s.returned)

end Sys2Proof.Machine
end

