-- ==== Sys2Proof/Certificates/Slice0/Obligations.lean ====
section
/-! DEFINITION. The statements for the provers. Each docstring names the rule of spec/ it formalises. -/

open Sys2Proof Sys2Proof.Machine

/-! ### A step and the decoder -/

/-- 43_control.md R190: with a command pending and no host input due before its completion, the step is the completion of
the command that PENDING decodes to. -/
def Obligations.StepRunsDecodedCommand : Prop :=
  ∀ (s : State) (i : Instr), s.status.busy = true → (s.hold = 0 ∨ s.inputs = []) → decode s.pending = .ok i →
    step s = exec i s

/-- The model's interface (log entry 11): a table word placed by `withFetchWord` is PENDING, and the next step runs the
command the table word decodes to. -/
def Obligations.PlacedWordRunsItsCommand : Prop :=
  ∀ (s : State) (w : Nat) (i : Instr), w < 2 ^ 32 → decodeTableWord 32 w = some i →
    (s.withFetchWord 32 w).pending.toNat = w ∧
    step (s.withFetchWord 32 w) = exec i (s.withFetchWord 32 w)

/-- 43_control.md R198: an ILLEGAL word completes with ERR = 4 and BUSY = 0 and changes nothing else. -/
def Obligations.IllegalWordCompletesWithCode4 : Prop :=
  ∀ (s : State) (e : Illegal), s.status.busy = true → (s.hold = 0 ∨ s.inputs = []) → decode s.pending = .error e →
    ErrCode.illegalCommand.code = 4 ∧
    step s = .next { s with status := { s.status with busy := false, err := .illegalCommand } }

/-- 30_encoding.md R95: each command is its mask and match, with the lengths it reads; every other word is ILLEGAL. -/
def Obligations.DecodeFollowsMaskAndMatch : Prop :=
  ∀ cmd : Word,
    (decode cmd = .ok .nop ↔ cmd &&& 0xFFC0C0FF#32 = 0x00#32) ∧
    (∀ k b, decode cmd = .ok (.makekey k b) ↔
      cmd &&& 0xFFC0C0FF#32 = 0x01#32 ∧ k = cmd.toNat / 2 ^ 8 % 64 ∧ b = cmd.toNat / 2 ^ 16 % 64) ∧
    (∀ b, decode cmd = .ok (.encrypt b) ↔ cmd &&& 0xFFC0C0FF#32 = 0x02#32 ∧ b = cmd.toNat / 2 ^ 16 % 64) ∧
    (∀ b, decode cmd = .ok (.decrypt b) ↔ cmd &&& 0xFFC0C0FF#32 = 0x03#32 ∧ b = cmd.toNat / 2 ^ 16 % 64) ∧
    (decode cmd = .ok .selftest ↔ cmd &&& 0xFFC0C0FF#32 = 0x04#32) ∧
    (decode cmd = .ok .zeroize ↔ cmd &&& 0xFFC0C0FF#32 = 0x05#32) ∧
    ((∃ e, decode cmd = .error e) ↔ 5 < (cmd &&& 0xFFC0C0FF#32).toNat)

/-- 30_encoding.md R95, R98: decoding the encoding of a well-formed command gives it back, at every operand value. -/
def Obligations.EncodedCommandDecodesToItself : Prop :=
  ∀ i : Instr, i.wellFormed = true → decode (encode i) = .ok i

/-- 30_encoding.md R95, R98: a decoded command is well-formed, and its encoding is its word with the ignored fields 0. -/
def Obligations.DecodedCommandEncodesToItsReadBits : Prop :=
  ∀ (cmd : Word) (i : Instr), decode cmd = .ok i → i.wellFormed = true ∧ encode i = cmd &&& readMask i

/-- 30_encoding.md R100, which the spec marks "[derived: from rule R91 and rule R98]": every worked encoding, both ways, with
what it says of MAKEKEY 15, 16; and the three words without operands of the table of R98. -/
def Obligations.WorkedEncodingsDecode : Prop :=
  (∀ p ∈ [(Instr.nop, 0x00000000#32),
      (.makekey 16 16, 0x00101001), (.makekey 24 16, 0x00101801), (.makekey 32 16, 0x00102001),
      (.makekey 16 32, 0x00201001), (.makekey 32 32, 0x00202001), (.makekey 15 16, 0x00100F01),
      (.encrypt 16, 0x00100002), (.encrypt 24, 0x00180002), (.encrypt 32, 0x00200002),
      (.decrypt 16, 0x00100003), (.decrypt 32, 0x00200003),
      (.selftest, 0x00000004), (.zeroize, 0x00000005)],
    encode p.1 = p.2 ∧ decode p.2 = .ok p.1) ∧
  (∀ s : State, exec (.makekey 15 16) s = .next { s with status := { s.status with busy := false, err := .invalidKey } }) ∧
  decode 0x00004001 = .error .reservedBits

/-! ### Host accesses -/

/-- 60_exceptions.md R214, 20_memory.md R63: an access that is not one 32-bit transfer at a multiple of 4 is a bus error,
whatever BUSY is; a burst is one whatever its total width. -/
def Obligations.NarrowOrMisalignedAccessIsBusError : Prop :=
  ∀ (s : State) (off : Nat) (width : Width) (kind : AccessKind) (rest : List Input), off < 4096 →
    (width ≠ .single 4 ∨ off % 4 ≠ 0) →
    coreTurn s = false → s.inputs = windowInput off width kind :: rest →
    step s = .fault (.busError off width (match kind with | .read => .read | .write _ => .write))

/-- 60_exceptions.md R215: any other access than a 32-bit read of ID, CAP or STATUS while BUSY = 1 is a protocol violation. -/
def Obligations.AccessWhileBusyIsProtocolViolation : Prop :=
  ∀ (s : State) (off : Nat) (kind : AccessKind) (rest : List Input), off < 4096 → off % 4 = 0 →
    (kind ≠ .read ∨ (off ≠ 0x000 ∧ off ≠ 0x004 ∧ off ≠ 0x00C)) →
    s.status.busy = true → s.hold ≠ 0 → s.inputs = windowInput off .word kind :: rest →
    step s = .fault (.protocolViolation off (match kind with | .read => .read | .write _ => .write))

/-- 60_exceptions.md R215, 95_test_vectors.md L2-12: ID, CAP and STATUS may be read while BUSY = 1. -/
def Obligations.IdentityAndStatusReadableWhileBusy : Prop :=
  ∀ (s : State) (off : Nat) (v : Word) (rest : List Input),
    ((off = 0x000 ∧ v = 0x52494A4E#32) ∨ (off = 0x004 ∧ v = 0x00000707#32) ∨ (off = 0x00C ∧ v = s.status.word)) →
    s.status.busy = true → s.hold ≠ 0 → s.inputs = windowInput off .word .read :: rest →
    step s = .next { s with inputs := rest, hold := s.hold - 1, returned := (off, v) :: s.returned }

/-- 20_memory.md R61, R64, R66: what a 32-bit read returns at every offset of the window; CMD and every reserved offset
read 0. -/
def Obligations.ReadReturnsMappedRegister : Prop :=
  ∀ (s : State) (off : Nat) (rest : List Input), off < 4096 → off % 4 = 0 → s.status.busy = false →
    s.inputs = windowInput off .word .read :: rest →
    ∃ v : Word,
      step s = .next { s with
        inputs := rest, hold := s.hold - 1, returned := (off, v) :: s.returned
        awaiting := s.awaiting && off != 0x00C } ∧
      (off = 0x000 → v = 0x52494A4E#32) ∧ (off = 0x004 → v = 0x00000707#32) ∧ (off = 0x008 → v = 0#32) ∧
      (off = 0x00C → v = s.status.word) ∧ (off = 0x010 → v = s.kinfo.word) ∧
      (∀ i : Fin 8, off = 0x040 + 4 * i.val → v = s.key[i]) ∧
      (∀ i : Fin 8, off = 0x080 + 4 * i.val → v = s.din[i]) ∧
      (∀ i : Fin 8, off = 0x0C0 + 4 * i.val → v = s.dout[i]) ∧
      (∀ w : Fin 120, off = 0x400 + 4 * w.val → v = s.ek[w]) ∧
      (∀ w : Fin 120, off = 0x600 + 4 * w.val → v = s.dk[w]) ∧
      ((0x014 ≤ off ∧ off ≤ 0x03C) ∨ (0x060 ≤ off ∧ off ≤ 0x07C) ∨ (0x0A0 ≤ off ∧ off ≤ 0x0BC) ∨
        (0x0E0 ≤ off ∧ off ≤ 0x3FC) ∨ (0x5E0 ≤ off ∧ off ≤ 0x5FC) ∨ (0x7E0 ≤ off ∧ off ≤ 0xFFC) → v = 0#32)

/-- 20_memory.md R65, R64: a 32-bit write anywhere but CMD, KEY and DIN is ignored and is not an error. -/
def Obligations.WriteToReadOnlyOrReservedIsIgnored : Prop :=
  ∀ (s : State) (off : Nat) (v : Word) (rest : List Input), off < 4096 → off % 4 = 0 → off ≠ 0x008 →
    ¬ (0x040 ≤ off ∧ off ≤ 0x05C) → ¬ (0x080 ≤ off ∧ off ≤ 0x09C) → s.status.busy = false →
    s.inputs = windowInput off .word (.write v) :: rest →
    step s = .next { s with inputs := rest, hold := s.hold - 1 }

/-- 20_memory.md R61, R68: a 32-bit write to KEY[i] or DIN[i] replaces that word and nothing else. -/
def Obligations.WriteToBufferSetsOneWord : Prop :=
  ∀ (s : State) (i : Fin 8) (v : Word) (rest : List Input), s.status.busy = false →
    (s.inputs = windowInput (0x040 + 4 * i.val) .word (.write v) :: rest →
      step s = .next { s with inputs := rest, hold := s.hold - 1, key := s.key.set i v }) ∧
    (s.inputs = windowInput (0x080 + 4 * i.val) .word (.write v) :: rest →
      step s = .next { s with inputs := rest, hold := s.hold - 1, din := s.din.set i v })

/-- 43_control.md R190, the accept: `PENDING <- v; STATUS.BUSY <- 1; STATUS.ERR <- 0`, "and nothing else changes". When the
completion comes is free (log entry 2). -/
def Obligations.WriteToCmdAcceptsWord : Prop :=
  ∀ (s : State) (v : Word) (rest : List Input), s.status.busy = false →
    s.inputs = windowInput 0x008 .word (.write v) :: rest →
    ∃ h : Nat, step s = .next { s with
      inputs := rest, hold := h, awaiting := true, accepted := s.accepted + 1
      pending := v, status := { s.status with busy := true, err := .none } }

/-- 20_memory.md R69: "Only a write to CMD has an effect beyond the addressed register: it accepts a command. No read has a
side effect". -/
def Obligations.OnlyCmdWritesActBeyondTheirRegister : Prop :=
  ∀ (s t : State) (off : Nat) (width : Width) (kind : AccessKind) (rest : List Input), off < 4096 →
    coreTurn s = false → s.inputs = windowInput off width kind :: rest → step s = .next t →
    (kind = .read → t.status = s.status ∧ SameRegisters s t) ∧
    (∀ v, kind = .write v → off ≠ 0x008 → t.status = s.status ∧ t.pending = s.pending ∧
      ∀ o, o % 4 = 0 → o ≠ off → windowWord o t = windowWord o s) ∧
    (∀ v, kind = .write v → off = 0x008 →
      t.status = { s.status with busy := true, err := .none } ∧ SameRegisters { s with pending := v } t)

/-- The model's choice (log entry 4), from 20_memory.md R60: a bus address outside the window is no address of this core. -/
def Obligations.AccessOutsideWindowStops : Prop :=
  ∀ (s : State) (a : Access) (rest : List Input), (a.addr < Config.base ∨ Config.base + 4096 ≤ a.addr) →
    coreTurn s = false → s.inputs = .access a :: rest →
    step s = .fault (.outsideWindow a.addr (match a.kind with | .read => .read | .write _ => .write))

/-- 10_state.md R30, R31, R35: where the fields of STATUS and KINFO stand in their words; the reserved bits read 0. -/
def Obligations.StatusAndKinfoWordsFollowLayout : Prop :=
  (∀ st : Status,
    st.word.getLsbD 0 = st.busy ∧ st.word.getLsbD 1 = st.kvalid ∧ st.word.getLsbD 2 = st.stDone ∧
    st.word.getLsbD 3 = st.stPass ∧ st.word.extractLsb' 4 4 = 0 ∧ st.word.extractLsb' 12 20 = 0 ∧
    (st.word.extractLsb' 8 4).toNat =
      match st.err with
      | .none => 0 | .invalidKey => 1 | .invalidArgument => 2 | .noKey => 3 | .illegalCommand => 4) ∧
  (∀ k : KInfo,
    k.word.extractLsb' 0 5 = k.nr ∧ k.word.extractLsb' 8 4 = k.nb ∧ k.word.extractLsb' 16 4 = k.nk ∧
    k.word.extractLsb' 5 3 = 0 ∧ k.word.extractLsb' 12 4 = 0 ∧ k.word.extractLsb' 20 12 = 0)

/-- 70_reset_and_hazards.md R240: reset puts every register at its reset value, whatever was pending; that the host's own
part stays is the model's choice (log entry 12). -/
def Obligations.ResetInputGivesResetState : Prop :=
  ∀ (s : State) (rest : List Input), coreTurn s = false → s.inputs = .reset :: rest →
    ∃ t, step s = .next t ∧
      t = { State.reset with inputs := rest, returned := s.returned, accepted := s.accepted } ∧
      t.status.busy = false ∧ t.pending = 0 ∧
      ∀ off, off < 4096 → off % 4 = 0 →
        windowWord off t = if off = 0x000 then 0x52494A4E#32 else if off = 0x004 then 0x00000707#32 else 0#32

/-! ### The commands -/

/-- 43_control.md R191: NOP clears ERR and BUSY and does nothing else; KLEN and BLEN are ignored; its worked example. -/
def Obligations.NopCompletesWithNoError : Prop :=
  (∀ s : State, exec .nop s = .next { s with status := { s.status with busy := false, err := .none } }) ∧
  (∀ cmd : Word, cmd &&& 0xFFC0C0FF#32 = 0#32 → decode cmd = .ok .nop) ∧
  (∀ st : Status, st.word = 0x00000102#32 → ({ st with busy := false, err := .none } : Status).word = 0x00000002#32)

/-- 41_makekey.md R152, R153, R154, R155, 10_state.md R36: a MAKEKEY of supported lengths completes with ERR = 0, KVALID = 1,
KINFO, and both schedules, which the recurrences of the spec give word by word; nothing else changes. -/
def Obligations.MakekeyInstallsSchedule : Prop :=
  ∀ (s : State) (klen blen : Nat), klen ∈ [16, 24, 32] → blen ∈ [16, 24, 32] →
    ∃ t, exec (.makekey klen blen) s = .next t ∧
      t = { s with
        status := { s.status with busy := false, kvalid := true, err := .none }
        kinfo := t.kinfo, ek := t.ek, dk := t.dk } ∧
      let nk := klen / 4
      let nb := blen / 4
      let nr := max nk nb + 6
      t.kinfo.nk.toNat = nk ∧ t.kinfo.nb.toNat = nb ∧ t.kinfo.nr.toNat = nr ∧
      (∀ i < nk, wordAt t.ek i =
        b2w (bufferByte s.key (4 * i)) (bufferByte s.key (4 * i + 1)) (bufferByte s.key (4 * i + 2))
          (bufferByte s.key (4 * i + 3))) ∧
      (∀ i, nk ≤ i → i < (nr + 1) * nb → wordAt t.ek i = wordAt t.ek (i - nk) ^^^
        (if i % nk = 0 then subWord (rotWord (wordAt t.ek (i - 1))) ^^^ (rcon (i / nk - 1) ++ (0 : BitVec 24))
         else if nk = 8 ∧ i % nk = 4 then subWord (wordAt t.ek (i - 1))
         else wordAt t.ek (i - 1))) ∧
      (∀ r ≤ nr, ∀ c < nb, wordAt t.dk (r * nb + c) =
        if r = 0 ∨ r = nr then wordAt t.ek ((nr - r) * nb + c) else imcw (wordAt t.ek ((nr - r) * nb + c))) ∧
      (∀ w, (nr + 1) * nb ≤ w → w < 120 → wordAt t.ek w = 0 ∧ wordAt t.dk w = 0)

/-- 41_makekey.md R151, R158: an unsupported length changes only ERR (and BUSY); INVALID_KEY is reported before
INVALID_ARGUMENT. -/
def Obligations.MakekeyBadLengthChangesOnlyErr : Prop :=
  ∀ (s : State) (klen blen : Nat),
    (klen ∉ [16, 24, 32] → exec (.makekey klen blen) s =
      .next { s with status := { s.status with busy := false, err := .invalidKey } }) ∧
    (klen ∈ [16, 24, 32] → blen ∉ [16, 24, 32] → exec (.makekey klen blen) s =
      .next { s with status := { s.status with busy := false, err := .invalidArgument } })

/-- 40_datapath.md R131 and 00_scope.md R9: the round counts, and that every schedule fits the 120-word store. -/
def Obligations.RoundCountTable : Prop :=
  roundCount 4 4 = 10 ∧ roundCount 4 6 = 12 ∧ roundCount 4 8 = 14 ∧
  roundCount 6 4 = 12 ∧ roundCount 6 6 = 12 ∧ roundCount 6 8 = 14 ∧
  roundCount 8 4 = 14 ∧ roundCount 8 6 = 14 ∧ roundCount 8 8 = 14 ∧
  ∀ nk ∈ [4, 6, 8], ∀ nb ∈ [4, 6, 8], (roundCount nk nb + 1) * nb ≤ 120

/-- 41_makekey.md R156, which the spec marks "[derived: from rule R153 and `40_datapath.md` rule R131]": the recurrence reads
rcon at no index above 28, and reads 28. -/
def Obligations.RconIndexStaysInTable : Prop :=
  (∀ nk ∈ [4, 6, 8], ∀ nb ∈ [4, 6, 8], ∀ i < (roundCount nk nb + 1) * nb, nk ≤ i → i % nk = 0 → i / nk - 1 ≤ 28) ∧
  (∃ i < (roundCount 4 8 + 1) * 8, 4 ≤ i ∧ i % 4 = 0 ∧ i / 4 - 1 = 28)

/-- 41_makekey.md R159, which the spec marks "[derived: from rules R153, R154, R155]": the session key is a function of the
first klen bytes of KEY and of blen alone. -/
def Obligations.SessionKeyDependsOnKeyBytesOnly : Prop :=
  ∀ (s s' t t' : State) (klen blen : Nat), klen ∈ [16, 24, 32] → blen ∈ [16, 24, 32] →
    (∀ j < klen, bufferByte s.key j = bufferByte s'.key j) →
    exec (.makekey klen blen) s = .next t → exec (.makekey klen blen) s' = .next t' →
    t.sessionKey = t'.sessionKey

/-- 42_block.md R170, R171, R175: an ENCRYPT under a held key of its block size completes with ERR = 0 and the block that the
rounds of R171 give, row by row and column by column, in DOUT, the rest of DOUT 0; nothing else changes. -/
def Obligations.EncryptFollowsRoundTrace : Prop :=
  ∀ s : State, s.status.kvalid = true → s.kinfo.nb.toNat ∈ [4, 6, 8] → 1 ≤ s.kinfo.nr.toNat →
    ∃ (t : State) (x : Nat → Nat → Nat → Byte),
      exec (.encrypt (4 * s.kinfo.nb.toNat)) s = .next t ∧
      t = { s with status := { s.status with busy := false, err := .none }, dout := t.dout } ∧
      EncryptTrace s.din s.ek s.kinfo.nr.toNat s.kinfo.nb.toNat x ∧
      (∀ c < s.kinfo.nb.toNat, ∀ r < 4, bufferByte t.dout (4 * c + r) = x s.kinfo.nr.toNat r c) ∧
      (∀ i, 4 * s.kinfo.nb.toNat ≤ i → i < 32 → bufferByte t.dout i = 0)

/-- 42_block.md R172, R173, R175: a DECRYPT under a held key of its block size completes with ERR = 0 and the block that the
rounds of R173 give in DOUT, the rest of DOUT 0; nothing else changes. -/
def Obligations.DecryptFollowsRoundTrace : Prop :=
  ∀ s : State, s.status.kvalid = true → s.kinfo.nb.toNat ∈ [4, 6, 8] → 1 ≤ s.kinfo.nr.toNat →
    ∃ (t : State) (x : Nat → Nat → Nat → Byte),
      exec (.decrypt (4 * s.kinfo.nb.toNat)) s = .next t ∧
      t = { s with status := { s.status with busy := false, err := .none }, dout := t.dout } ∧
      DecryptTrace s.din s.dk s.kinfo.nr.toNat s.kinfo.nb.toNat x ∧
      (∀ c < s.kinfo.nb.toNat, ∀ r < 4, bufferByte t.dout (4 * c + r) = x s.kinfo.nr.toNat r c) ∧
      (∀ i, 4 * s.kinfo.nb.toNat ≤ i → i < 32 → bufferByte t.dout i = 0)

/-- 42_block.md R170, R172, 60_exceptions.md R217: NO_KEY whatever the length, else INVALID_ARGUMENT for a length that is not
the key's; nothing but ERR (and BUSY) changes. -/
def Obligations.BlockCommandErrorsInOrder : Prop :=
  ∀ (s : State) (blen : Nat) (i : Instr), (i = .encrypt blen ∨ i = .decrypt blen) →
    (s.status.kvalid = false →
      exec i s = .next { s with status := { s.status with busy := false, err := .noKey } }) ∧
    (s.status.kvalid = true → blen ≠ 4 * s.kinfo.nb.toNat →
      exec i s = .next { s with status := { s.status with busy := false, err := .invalidArgument } })

/-- 42_block.md R176: ENCRYPT and DECRYPT write only DOUT and STATUS, and their output is a function of DIN's first blen bytes
and the session key only. -/
def Obligations.BlockCommandReadsBlockAndKeyOnly : Prop :=
  ∀ (s s' t t' : State) (blen : Nat) (i : Instr), (i = .encrypt blen ∨ i = .decrypt blen) →
    s.status.kvalid = s'.status.kvalid → s.sessionKey = s'.sessionKey →
    (∀ j < blen, bufferByte s.din j = bufferByte s'.din j) →
    exec i s = .next t → exec i s' = .next t' →
    t = { s with status := { s.status with busy := t.status.busy, err := t.status.err }, dout := t.dout } ∧
    t.status.err = t'.status.err ∧ (t.status.err = .none → t.dout = t'.dout)

/-- 42_block.md R174, which the spec marks "[derived: from rules R171, R173, …]": after a MAKEKEY of supported lengths,
decrypting an encrypted block gives it back, and encrypting a decrypted block does too. -/
def Obligations.DecryptInvertsEncrypt : Prop :=
  ∀ (s t : State) (klen blen : Nat) (p : Vector Word 8), klen ∈ [16, 24, 32] → blen ∈ [16, 24, 32] →
    exec (.makekey klen blen) s = .next t →
    (∃ e d, exec (.encrypt blen) { t with din := p } = .next e ∧
      exec (.decrypt blen) { e with din := e.dout } = .next d ∧
      ∀ i < blen, bufferByte d.dout i = bufferByte p i) ∧
    (∃ d e, exec (.decrypt blen) { t with din := p } = .next d ∧
      exec (.encrypt blen) { d with din := d.dout } = .next e ∧
      ∀ i < blen, bufferByte e.dout i = bufferByte p i)

/-- 70_reset_and_hazards.md R248, which the spec marks "[derived: from `42_block.md` rules R170 and R172]": after MAKEKEY for
blocks of b1 bytes, a block command of another length fails with INVALID_ARGUMENT and one of b1 bytes does not fail. -/
def Obligations.BlockSizeBoundToSessionKey : Prop :=
  ∀ (s t : State) (klen b1 b2 : Nat) (i : Instr), klen ∈ [16, 24, 32] → b1 ∈ [16, 24, 32] →
    exec (.makekey klen b1) s = .next t → (i = .encrypt b2 ∨ i = .decrypt b2) →
    ∃ u, exec i t = .next u ∧ u.status.err = if b2 = b1 then .none else .invalidArgument

/-- 43_control.md R192: SELFTEST runs the test at the first completion since reset and caches it; later ones change nothing but
ERR and BUSY. -/
def Obligations.SelftestRunsOnceAndCaches : Prop :=
  ∀ s : State,
    (s.status.stDone = false → exec .selftest s = .next { s with
      status := { s.status with busy := false, err := .none, stDone := true, stPass := selfTestResult } }) ∧
    (s.status.stDone = true → exec .selftest s = .next { s with
      status := { s.status with busy := false, err := .none } })

/-- 43_control.md R195, which the spec marks "[derived: from rule R193 and `42_block.md` rule R174]": the self-test of a core
that follows the rules passes. -/
def Obligations.SelfTestResultIsPass : Prop := selfTestResult = true

/-- 43_control.md R196: ZEROIZE clears KEY, DIN, DOUT, EK, DK, KINFO and KVALID, keeps the self-test cache, and after it ENCRYPT
and DECRYPT fail with NO_KEY. -/
def Obligations.ZeroizeClearsMaterial : Prop :=
  ∀ s : State, ∃ t, exec .zeroize s = .next t ∧
    t = { s with
      status := { s.status with busy := false, kvalid := false, err := .none }
      kinfo := { nr := 0, nb := 0, nk := 0 }
      key := Vector.replicate 8 0, din := Vector.replicate 8 0, dout := Vector.replicate 8 0
      ek := Vector.replicate 120 0, dk := Vector.replicate 120 0 } ∧
    (∀ off, 0x010 ≤ off → off < 4096 → windowWord off t = 0) ∧
    (∀ (u : State) (blen : Nat) (i : Instr), u.status.kvalid = t.status.kvalid → (i = .encrypt blen ∨ i = .decrypt blen) →
      ∃ v, exec i u = .next v ∧ v.status.err = .noKey)

/-! ### Rules over all commands -/

/-- 60_exceptions.md R212: a command that completes with ERR ≠ 0 has changed no state but ERR and BUSY. -/
def Obligations.CommandErrorsArePrecise : Prop :=
  ∀ s t : State, coreTurn s = true → step s = .next t → t.status.err ≠ .none →
    t = { s with status := { s.status with busy := false, err := t.status.err } }

/-- 10_state.md R42: which commands write which flags, and which error codes each can report. -/
def Obligations.FlagsFollowCommandTable : Prop :=
  (∀ (i : Instr) (s t : State), exec i s = .next t →
    t.status.busy = false ∧
    match i with
    | .nop => t.status = { s.status with busy := false, err := .none }
    | .makekey _ _ =>
      t.status = { s.status with busy := false, kvalid := true, err := .none } ∨
      t.status = { s.status with busy := false, err := .invalidKey } ∨
      t.status = { s.status with busy := false, err := .invalidArgument }
    | .encrypt _ | .decrypt _ =>
      t.status = { s.status with busy := false, err := .none } ∨
      t.status = { s.status with busy := false, err := .noKey } ∨
      t.status = { s.status with busy := false, err := .invalidArgument }
    | .selftest =>
      t.status.kvalid = s.status.kvalid ∧ t.status.err = .none ∧
      (s.status.stDone = false → t.status.stDone = true ∧ t.status.stPass = selfTestResult) ∧
      (s.status.stDone = true → t.status.stDone = true ∧ t.status.stPass = s.status.stPass)
    | .zeroize => t.status = { s.status with busy := false, kvalid := false, err := .none }) ∧
  (∀ (s t : State) (e : Illegal), coreTurn s = true → decode s.pending = .error e → step s = .next t →
    t.status = { s.status with busy := false, err := .illegalCommand }) ∧
  (∀ (s t : State) (v : Word) (rest : List Input), s.status.busy = false →
    s.inputs = windowInput 0x008 .word (.write v) :: rest → step s = .next t →
    t.status = { s.status with busy := true, err := .none }) ∧
  (∀ (s t : State) (off : Nat) (rest : List Input), off < 4096 → coreTurn s = false →
    s.inputs = windowInput off .word .read :: rest → step s = .next t → t.status = s.status)

/-- 43_control.md R190, 60_exceptions.md R220: every command completes in every state, leaves the core idle, and touches
neither PENDING nor the host. -/
def Obligations.EveryCommandCompletes : Prop :=
  ∀ (i : Instr) (s : State), ∃ t, exec i s = .next t ∧ t.status.busy = false ∧ t.pending = s.pending ∧ SameHost s t

/-- 70_reset_and_hazards.md R241: "Reset is the only event that clears ST_DONE and ST_PASS." -/
def Obligations.OnlyResetClearsSelfTestCache : Prop :=
  ∀ s t : State, step s = .next t → s.status.stDone = true →
    (t.status.stDone = true ∧ t.status.stPass = s.status.stPass) ∨
    (coreTurn s = false ∧ ∃ rest, s.inputs = .reset :: rest)

/-- 10_state.md R38: a MAKEKEY that succeeds replaces the session key whole, ZEROIZE and reset clear it whole, and every other
step leaves it unchanged. -/
def Obligations.SessionKeyReplacedOrClearedWhole : Prop :=
  ∀ s t : State, step s = .next t →
    (∀ klen blen, coreTurn s = true → decode s.pending = .ok (.makekey klen blen) → t.status.err = .none →
      t.sessionKey = makeSessionKey (bufferBytes s.key klen) (klen / 4) (blen / 4)) ∧
    (coreTurn s = true → decode s.pending = .ok .zeroize → t.sessionKey = SessionKey.empty) ∧
    (∀ rest, coreTurn s = false → s.inputs = .reset :: rest → t.sessionKey = SessionKey.empty) ∧
    (¬ (∃ klen blen, coreTurn s = true ∧ decode s.pending = .ok (.makekey klen blen) ∧ t.status.err = .none) →
      ¬ (coreTurn s = true ∧ decode s.pending = .ok .zeroize) →
      ¬ (coreTurn s = false ∧ ∃ rest, s.inputs = .reset :: rest) →
      t.sessionKey = s.sessionKey)

/-- 10_state.md R32: BUSY is set by the accept of a command and cleared by its completion, and "Only these two events write it"
(and reset, 70_reset_and_hazards.md R240). -/
def Obligations.BusyChangesOnlyAtAcceptCompletionReset : Prop :=
  ∀ s t : State, step s = .next t →
    (s.status.busy = false → t.status.busy = true →
      ∃ a rest v, s.inputs = .access a :: rest ∧ windowOffset a.addr = some 0x008 ∧ a.width = .word ∧ a.kind = .write v ∧
        t.pending = v) ∧
    (s.status.busy = true → t.status.busy = false → coreTurn s = true ∨ ∃ rest, s.inputs = .reset :: rest) ∧
    (coreTurn s = true → t.status.busy = false)

/-- 10_state.md R39, R20: PENDING is read only while BUSY = 1, so a step from an idle state is the same whatever PENDING holds;
with nothing to do the machine stays as it is. -/
def Obligations.PendingUnreadWhileIdle : Prop :=
  ∀ (s : State) (v : Word), s.status.busy = false →
    (s.inputs = [] → step s = .next s) ∧
    (∀ t, step s = .next t → ∃ u, step { s with pending := v } = .next u ∧ { u with pending := t.pending } = t) ∧
    (∀ f, step s = .fault f → step { s with pending := v } = .fault f)

/-- 70_reset_and_hazards.md R250: a pending command ends, after at most as many host inputs as go before it, unless the host
breaks the protocol; the bound is the model's (log entry 2). -/
def Obligations.PendingCommandEnds : Prop :=
  ∀ s : State, s.status.busy = true →
    ∃ n ≤ s.hold + 1,
      (∃ t : State, Sys2Proof.core.run n s = .next t ∧ t.status.busy = false) ∨
      (∃ f : Fault, Sys2Proof.core.run n s = .fault f)

/-- 70_reset_and_hazards.md R250, 30_encoding.md R99: "every `WAIT` ends", with BUSY = 0 observed and the rest of the program
to do: at once where BUSY = 0 already, else after the completion. The number of steps is the model's (log entry 2). -/
def Obligations.WaitEndsWithBusyClear : Prop :=
  ∀ (s : State) (rest : List Input), s.inputs = .wait :: rest →
    ∃ t : State, Sys2Proof.core.run (if s.status.busy then s.hold + 2 else 1) s = .next t ∧
      t.status.busy = false ∧ t.awaiting = false ∧ t.inputs = rest

/-- 70_reset_and_hazards.md R245: a forbidden access made before BUSY = 0 was observed has an execution in which it faults, and
one in which the completion comes first and the access goes through. The place of the completion among the host's
inputs is the model's field `hold`, a free value (DESIGN CHOICE, log entry 2): both executions differ in it alone. -/
def Obligations.EarlyAccessMayFault : Prop :=
  ∀ (s : State) (off : Nat) (kind : AccessKind) (rest : List Input), off < 4096 → off % 4 = 0 →
    (kind ≠ .read ∨ (off ≠ 0x000 ∧ off ≠ 0x004 ∧ off ≠ 0x00C)) →
    s.status.busy = true → s.inputs = windowInput off .word kind :: rest →
    (∃ h, step { s with hold := h } =
      .fault (.protocolViolation off (match kind with | .read => .read | .write _ => .write))) ∧
    (∃ h t u, step { s with hold := h } = .next t ∧ t.status.busy = false ∧ t.inputs = s.inputs ∧
      step t = .next u ∧ u.inputs = rest ∧
      (kind = .read → u.returned = (off, windowWord off t) :: s.returned) ∧
      (∀ v, kind = .write v → off = 0x008 → u.pending = v ∧ u.status.busy = true) ∧
      (∀ v, kind = .write v → (0x040 ≤ off ∧ off ≤ 0x05C) ∨ (0x080 ≤ off ∧ off ≤ 0x09C) → windowWord off u = v) ∧
      (∀ v, kind = .write v → off ≠ 0x008 → u.status = t.status ∧ ∀ o, o % 4 = 0 → o ≠ off → windowWord o u = windowWord o t))

/-- 43_control.md R190, 70_reset_and_hazards.md R246, 30_encoding.md R99: from an idle state, `CMD m` and `WAIT` perform m: when
they are done the registers are those exec gives, whenever the completion came. -/
def Obligations.CommandThenWaitPerformsCommand : Prop :=
  ∀ (s : State) (i : Instr) (rest : List Input), i.wellFormed = true → s.status.busy = false →
    s.inputs = windowInput 0x008 .word (.write (encode i)) :: .wait :: rest →
    ∃ (n : Nat) (u v t : State),
      SameRegisters { s with pending := encode i } u ∧ u.status = { s.status with busy := true, err := .none } ∧
      exec i u = .next v ∧
      Sys2Proof.core.run n s = .next t ∧
      SameRegisters v t ∧ t.status = v.status ∧ t.inputs = rest ∧ t.awaiting = false

/-- 30_encoding.md R99: `LDKEY h` puts the bytes of h into KEY, byte 0 first, in one write for each four bytes, and changes no
other register and no other byte of KEY. -/
def Obligations.LdkeyFillsKeyBuffer : Prop :=
  ∀ (s : State) (bytes : List Byte) (ins rest : List Input), bytes.length ∈ [16, 24, 32] → s.status.busy = false →
    (HostStmt.ldkey bytes).inputs = some ins → s.inputs = ins ++ rest →
    ∃ t : State, Sys2Proof.core.run (bytes.length / 4) s = .next t ∧
      t = { s with inputs := rest, hold := t.hold, key := t.key } ∧
      (∀ i < bytes.length, bufferByte t.key i = bytes.getD i 0) ∧
      (∀ i, bytes.length ≤ i → i < 32 → bufferByte t.key i = bufferByte s.key i)

/-- 30_encoding.md R98, R99: a `CMD m` statement leaves m pending, and an assembler refuses a length outside 0..63. -/
def Obligations.CmdStatementLeavesCommandPending : Prop :=
  (∀ (s : State) (i : Instr) (ins rest : List Input), (HostStmt.cmd i).inputs = some ins → s.inputs = ins ++ rest →
    s.status.busy = false →
    ∃ t, step s = .next t ∧ t.status.busy = true ∧ decode t.pending = .ok i ∧ t.inputs = rest) ∧
  (∀ klen blen, (HostStmt.cmd (.makekey klen blen)).inputs = none ↔ 63 < klen ∨ 63 < blen) ∧
  (∀ blen, ((HostStmt.cmd (.encrypt blen)).inputs = none ↔ 63 < blen) ∧
    ((HostStmt.cmd (.decrypt blen)).inputs = none ↔ 63 < blen))

/-! ### The invariant -/

/-- 10_state.md R30, R33, R34, R36: from every state that meets the invariant, every step gives one that meets it. -/
def Obligations.StepKeepsInvariant : Prop := ∀ s t : State, Inv s → step s = .next t → Inv t

/-- 70_reset_and_hazards.md R240: the state after reset meets the invariant. -/
def Obligations.ResetMeetsInvariant : Prop := Inv State.reset

/-! ### The datapath -/

/-- 40_datapath.md R112: the laws of `mul`. -/
def Obligations.MulIsFieldMultiplication : Prop :=
  (∀ a b, mul a b = mul b a) ∧ (∀ a b c, mul (mul a b) c = mul a (mul b c)) ∧
  (∀ a b c, mul a (b ^^^ c) = mul a b ^^^ mul a c) ∧ (∀ x, mul 0 x = 0) ∧ (∀ x, mul 1 x = x) ∧
  (∀ x, x ≠ 0 → ∃ y, mul x y = 1 ∧ ∀ z, mul x z = 1 → z = y)

/-- 40_datapath.md R115 (90_conflicts.md C1): the table S equals the construction from the field inverse. -/
def Obligations.SboxIsAffineOfInverse : Prop :=
  sbox 0 = sboxAffine 0 ∧ ∀ x b, mul x b = 1 → sbox x = sboxAffine b

/-- 40_datapath.md R117, which the spec marks "[derived: from rule R114 and rule R116]": the properties of S and Si. -/
def Obligations.InverseSboxInverts : Prop :=
  ∀ x : Byte, invSbox (sbox x) = x ∧ sbox (invSbox x) = x ∧ sbox x ≠ x ∧ sbox x ≠ x ^^^ 0xFF

/-- 40_datapath.md R118: rcon is built by repeated doubling from 1. -/
def Obligations.RconDoubles : Prop := rcon 0 = 0x01 ∧ ∀ i < 29, rcon (i + 1) = mul 0x02 (rcon i)

/-- 40_datapath.md R126: InvMixColumns and MixColumns invert each other, and both are linear over `xor`. -/
def Obligations.MixColumnsInvertible : Prop :=
  (∀ s : CipherState, invMixColumns (mixColumns s) = s ∧ mixColumns (invMixColumns s) = s) ∧
  (∀ c d : Column, mixColumn (c.xor d) = (mixColumn c).xor (mixColumn d) ∧
    invMixColumn (c.xor d) = (invMixColumn c).xor (invMixColumn d))

/-- 40_datapath.md R123 and 42_block.md R173, both of which the spec marks as derived: InvShiftRows and ShiftRows invert each
other, and InvSubBytes commutes with InvShiftRows. -/
def Obligations.ShiftRowsInvertible : Prop :=
  ∀ (nb : Nat) (s : CipherState), nb ∈ [4, 6, 8] → s.length = nb →
    invShiftRows nb (shiftRows nb s) = s ∧ shiftRows nb (invShiftRows nb s) = s ∧
    invSubBytes (invShiftRows nb s) = invShiftRows nb (invSubBytes s)

/-- 40_datapath.md R119: a block is loaded into the state and stored back column by column. -/
def Obligations.StateHoldsBlockByColumns : Prop :=
  ∀ (nb : Nat) (bs : List Byte), bs.length = 4 * nb →
    (∀ c < nb, ((loadState nb bs).column c).a0 = bs.getD (4 * c) 0 ∧ ((loadState nb bs).column c).a1 = bs.getD (4 * c + 1) 0 ∧
      ((loadState nb bs).column c).a2 = bs.getD (4 * c + 2) 0 ∧ ((loadState nb bs).column c).a3 = bs.getD (4 * c + 3) 0) ∧
    (∀ c < nb, ((loadState nb bs).column c).word =
      b2w (bs.getD (4 * c) 0) (bs.getD (4 * c + 1) 0) (bs.getD (4 * c + 2) 0) (bs.getD (4 * c + 3) 0)) ∧
    storeState (loadState nb bs) = bs ∧
    ∀ s : CipherState, s.length = nb → loadState nb (storeState s) = s

/-- 40_datapath.md R129, the equality the spec marks "[derived: from rules R120, R122, R124, R127]": the round tables compute
one full encryption round, and the decryption tables the substituted and mixed column. -/
def Obligations.RoundTablesComputeRound : Prop :=
  (∀ (nb : Nat) (s : CipherState) (k : List Word) (c : Nat), nb ∈ [4, 6, 8] → s.length = nb → k.length = nb → c < nb →
    ((encryptRound nb s k).column c).word = tableRoundColumn nb s k c) ∧
  (∀ d : Column, (invMixColumn (d.map invSbox)).word = td 0 d.a0 ^^^ td 1 d.a1 ^^^ td 2 d.a2 ^^^ td 3 d.a3)

/-- 10_state.md R23, 20_memory.md R67, 00_scope.md R12: byte 4i+j of a buffer is bits 31-8j : 24-8j of word i, and packing
inverts taking apart. -/
def Obligations.BufferBytesBigEndian : Prop :=
  (∀ (buf : Vector Word 8) (i : Fin 8) (j : Nat), j < 4 →
    bufferByte buf (4 * i.val + j) = buf[i].extractLsb' (24 - 8 * j) 8) ∧
  (∀ b0 b1 b2 b3 : Byte, (b2w b0 b1 b2 b3).extractLsb' 24 8 = b0 ∧ (b2w b0 b1 b2 b3).extractLsb' 16 8 = b1 ∧
    (b2w b0 b1 b2 b3).extractLsb' 8 8 = b2 ∧ (b2w b0 b1 b2 b3).extractLsb' 0 8 = b3)
end

