-- ==== Sys2Proof/Laws/Bytes.lean ====
section
/-! SUPPORT. Words, bytes and register files filled from lists. -/

namespace Sys2Proof.Machine

/-- Bit i of four packed bytes (00_scope.md R12). -/
theorem b2w_getLsbD (b0 b1 b2 b3 : Byte) (i : Nat) :
    (b2w b0 b1 b2 b3).getLsbD i =
      if i < 8 then b3.getLsbD i else if i < 16 then b2.getLsbD (i - 8)
      else if i < 24 then b1.getLsbD (i - 16) else b0.getLsbD (i - 24) := by
  refine (BitVec.getLsbD_append (x := b0 ++ b1 ++ b2) (y := b3) (i := i)).trans ?_
  rw [BitVec.getLsbD_append (x := b0 ++ b1) (y := b2), BitVec.getLsbD_append (x := b0) (y := b1)]
  rcases Nat.lt_or_ge i 8 with h | h
  · simp [h]
  rcases Nat.lt_or_ge i 16 with h16 | h16
  · simp [h16, show ¬ i < 8 by omega, show i - 8 < 8 by omega]
  rcases Nat.lt_or_ge i 24 with h24 | h24
  · simp [h24, show ¬ i < 8 by omega, show ¬ i < 16 by omega, show ¬ i - 8 < 8 by omega,
      show i - 8 - 8 = i - 16 by omega, show ¬ 8 ≤ i - 16 by omega]
  · simp [show ¬ i < 8 by omega, show ¬ i < 16 by omega, show ¬ i < 24 by omega, show ¬ i - 8 < 8 by omega,
      show ¬ i - 8 - 8 < 8 by omega, show i - 8 - 8 - 8 = i - 24 by omega]

/-- Packing four bytes and taking the word apart gives them back (00_scope.md R12). -/
@[simp] theorem w2b_word (c : Column) : w2b c.word = c := by
  cases c with
  | mk a0 a1 a2 a3 =>
    simp only [w2b, Column.word, Column.mk.injEq]
    refine ⟨?_, ?_, ?_, ?_⟩ <;>
      (apply BitVec.eq_of_getLsbD_eq; intro i hi; simp only [BitVec.getLsbD_extractLsb', b2w_getLsbD])
    · simp [hi, show ¬ 24 + i < 8 by omega, show ¬ 24 + i < 16 by omega]
    · simp [hi, show ¬ 16 + i < 8 by omega, show 16 + i < 24 by omega]
    · simp [hi, show 8 + i < 16 by omega]
    · simp [hi]

/-- Taking a word apart and packing its bytes gives it back (00_scope.md R12). -/
@[simp] theorem word_w2b (w : Word) : (w2b w).word = w := by
  apply BitVec.eq_of_getLsbD_eq
  intro i hi
  simp only [w2b, Column.word, b2w_getLsbD, BitVec.getLsbD_extractLsb']
  rcases Nat.lt_or_ge i 8 with h | h
  · simp [h]
  rcases Nat.lt_or_ge i 16 with h16 | h16
  · simp [h16, show ¬ i < 8 by omega, show i - 8 < 8 by omega, show 8 + (i - 8) = i by omega]
  rcases Nat.lt_or_ge i 24 with h24 | h24
  · simp [h24, show ¬ i < 8 by omega, show ¬ i < 16 by omega, show i - 16 < 8 by omega,
      show 16 + (i - 16) = i by omega]
  · simp [show ¬ i < 8 by omega, show ¬ i < 16 by omega, show ¬ i < 24 by omega, show i - 24 < 8 by omega,
      show 24 + (i - 24) = i by omega]

@[simp] theorem bufferBytes_length (buf : Vector Word 8) (n : Nat) : (bufferBytes buf n).length = n := by
  simp [bufferBytes]

/-- Byte i of a buffer's first n bytes. -/
theorem bufferBytes_getD (buf : Vector Word 8) {n i : Nat} (h : i < n) :
    (bufferBytes buf n).getD i 0 = bufferByte buf i := by
  simp [bufferBytes, List.getD_eq_getElem?_getD, h]

/-- Word i of a register file filled from a list. -/
@[simp] theorem wordsOf_getElem (n : Nat) (ws : List Word) (i : Nat) (h : i < n) : (wordsOf n ws)[i] = ws.getD i 0 := by
  simp [wordsOf]

/-- Below its size, `wordAt` is the register. -/
theorem wordAt_eq {n : Nat} (v : Vector Word n) {i : Nat} (h : i < n) : wordAt v i = v[i] := by
  simp [wordAt, h]

/-- Above its size, `wordAt` is 0. -/
theorem wordAt_eq_zero {n : Nat} (v : Vector Word n) {i : Nat} (h : n ≤ i) : wordAt v i = 0 := by
  have : ¬ i < n := by omega
  simp [wordAt, this]

end Sys2Proof.Machine
end

