-- ==== Sys2Proof/Laws/Datapath.lean ====
section
/-! SUPPORT. The shapes of the datapath's lists: NB columns in every state, N words in every schedule. -/

namespace Sys2Proof.Machine

@[simp] theorem loadState_length (nb : Nat) (bs : List Byte) : (loadState nb bs).length = nb := by simp [loadState]

@[simp] theorem subBytes_length (s : CipherState) : (subBytes s).length = s.length := by simp [subBytes]

@[simp] theorem invSubBytes_length (s : CipherState) : (invSubBytes s).length = s.length := by simp [invSubBytes]

@[simp] theorem shiftRows_length (nb : Nat) (s : CipherState) : (shiftRows nb s).length = nb := by simp [shiftRows]

@[simp] theorem invShiftRows_length (nb : Nat) (s : CipherState) : (invShiftRows nb s).length = nb := by
  simp [invShiftRows]

@[simp] theorem mixColumns_length (s : CipherState) : (mixColumns s).length = s.length := by simp [mixColumns]

@[simp] theorem invMixColumns_length (s : CipherState) : (invMixColumns s).length = s.length := by simp [invMixColumns]

@[simp] theorem addRoundKey_length (s : CipherState) (k : List Word) :
    (addRoundKey s k).length = min s.length k.length := by
  simp [addRoundKey]

@[simp] theorem roundKey_length (schedule : Vector Word 120) (nb r : Nat) : (roundKey schedule nb r).length = nb := by
  simp [roundKey]

@[simp] theorem encryptRound_length (nb : Nat) (s : CipherState) (k : List Word) :
    (encryptRound nb s k).length = min nb k.length := by
  simp [encryptRound]

@[simp] theorem decryptRound_length (nb : Nat) (s : CipherState) (k : List Word) :
    (decryptRound nb s k).length = min nb k.length := by
  simp [decryptRound]

/-- A state of n columns is 4n bytes (40_datapath.md R119). -/
@[simp] theorem storeState_length (s : CipherState) : (storeState s).length = 4 * s.length := by
  induction s with
  | nil => rfl
  | cons c s ih =>
    rw [storeState, List.flatMap_cons, List.length_append, ← storeState, ih]
    simp only [List.length_cons, List.length_nil]
    omega

/-- A column inside the state (00_scope.md R14). -/
theorem column_eq (s : CipherState) {c : Nat} (h : c < s.length) : s.column c = s[c] := by
  simp [CipherState.column, h]

/-- The key-expansion loop adds n words in front (41_makekey.md R153). -/
theorem expandLoop_length (nk n i : Nat) (prior : List Word) : (expandLoop nk n i prior).length = n + prior.length := by
  induction n generalizing i prior with
  | zero => simp [expandLoop]
  | succ n ih => rw [expandLoop, ih, List.length_cons]; omega

/-- The schedule has N = (NR+1)*NB words (41_makekey.md R153). -/
theorem expand_length (key : List Byte) {nk nb nr : Nat} (h : nk ≤ (nr + 1) * nb) :
    (expand key nk nb nr).length = (nr + 1) * nb := by
  simp [expand, expandLoop_length, keyWords, h]

end Sys2Proof.Machine
end

