-- ==== Sys2Proof/Laws/Decode.lean ====
section
/-! SUPPORT. The decoder, opcode by opcode (30_encoding.md R95). -/

namespace Sys2Proof

/-- A length read from the command word fits its six-bit field (30_encoding.md R92). -/
theorem klenField_le (cmd : Word) : klenField cmd ≤ 63 := by
  have : (cmd.extractLsb' 8 6).toNat < 64 := (cmd.extractLsb' 8 6).isLt
  unfold klenField; omega

theorem blenField_le (cmd : Word) : blenField cmd ≤ 63 := by
  have : (cmd.extractLsb' 16 6).toNat < 64 := (cmd.extractLsb' 16 6).isLt
  unfold blenField; omega

/-- What a decoded command says of its word: the reserved bits are 0, and its opcode and its lengths are the word's
(30_encoding.md R95). -/
theorem decode_ok {cmd : Word} {i : Instr} (h : decode cmd = .ok i) :
    rsv2Field cmd = 0 ∧ rsv1Field cmd = 0 ∧
      match i with
      | .nop => (opField cmd).toNat = 0x00
      | .makekey klen blen => (opField cmd).toNat = 0x01 ∧ klen = klenField cmd ∧ blen = blenField cmd
      | .encrypt blen => (opField cmd).toNat = 0x02 ∧ blen = blenField cmd
      | .decrypt blen => (opField cmd).toNat = 0x03 ∧ blen = blenField cmd
      | .selftest => (opField cmd).toNat = 0x04
      | .zeroize => (opField cmd).toNat = 0x05 := by
  unfold decode at h
  split at h
  · cases h
  · next hr =>
    have hr' : rsv2Field cmd = 0 ∧ rsv1Field cmd = 0 := by simpa [not_or] using hr
    refine ⟨hr'.1, hr'.2, ?_⟩
    split at h <;> cases h <;> simp_all

end Sys2Proof
end

