-- ==== Sys2Proof/Laws/Operands.lean ====
section
/-! SUPPORT. The address map, said once: what stands at an offset, and where each register stands (20_memory.md R61). -/

namespace Sys2Proof.Machine

/-- What stands at an offset, with the offsets it stands at (20_memory.md R61). -/
theorem atOffset_cases (off : Nat) :
    (off = 0x000 ∧ Reg.atOffset off = .id) ∨ (off = 0x004 ∧ Reg.atOffset off = .cap) ∨
    (off = 0x008 ∧ Reg.atOffset off = .cmd) ∨ (off = 0x00C ∧ Reg.atOffset off = .status) ∨
    (off = 0x010 ∧ Reg.atOffset off = .kinfo) ∨
    ((0x040 ≤ off ∧ off ≤ 0x05C) ∧ Reg.atOffset off = .key ((off - 0x040) / 4)) ∨
    ((0x080 ≤ off ∧ off ≤ 0x09C) ∧ Reg.atOffset off = .din ((off - 0x080) / 4)) ∨
    ((0x0C0 ≤ off ∧ off ≤ 0x0DC) ∧ Reg.atOffset off = .dout ((off - 0x0C0) / 4)) ∨
    ((0x400 ≤ off ∧ off ≤ 0x5DC) ∧ Reg.atOffset off = .ek ((off - 0x400) / 4)) ∨
    ((0x600 ≤ off ∧ off ≤ 0x7DC) ∧ Reg.atOffset off = .dk ((off - 0x600) / 4)) ∨
    ((off ≠ 0x000 ∧ off ≠ 0x004 ∧ off ≠ 0x008 ∧ off ≠ 0x00C ∧ off ≠ 0x010 ∧ ¬ (0x040 ≤ off ∧ off ≤ 0x05C) ∧
      ¬ (0x080 ≤ off ∧ off ≤ 0x09C) ∧ ¬ (0x0C0 ≤ off ∧ off ≤ 0x0DC) ∧ ¬ (0x400 ≤ off ∧ off ≤ 0x5DC) ∧
      ¬ (0x600 ≤ off ∧ off ≤ 0x7DC)) ∧ Reg.atOffset off = .reserved) := by
  unfold Reg.atOffset
  by_cases h0 : off = 0x000
  · exact .inl ⟨h0, if_pos h0⟩
  rw [if_neg h0]; refine .inr ?_
  by_cases h1 : off = 0x004
  · exact .inl ⟨h1, if_pos h1⟩
  rw [if_neg h1]; refine .inr ?_
  by_cases h2 : off = 0x008
  · exact .inl ⟨h2, if_pos h2⟩
  rw [if_neg h2]; refine .inr ?_
  by_cases h3 : off = 0x00C
  · exact .inl ⟨h3, if_pos h3⟩
  rw [if_neg h3]; refine .inr ?_
  by_cases h4 : off = 0x010
  · exact .inl ⟨h4, if_pos h4⟩
  rw [if_neg h4]; refine .inr ?_
  by_cases h5 : 0x040 ≤ off ∧ off ≤ 0x05C
  · exact .inl ⟨h5, if_pos h5⟩
  rw [if_neg h5]; refine .inr ?_
  by_cases h6 : 0x080 ≤ off ∧ off ≤ 0x09C
  · exact .inl ⟨h6, if_pos h6⟩
  rw [if_neg h6]; refine .inr ?_
  by_cases h7 : 0x0C0 ≤ off ∧ off ≤ 0x0DC
  · exact .inl ⟨h7, if_pos h7⟩
  rw [if_neg h7]; refine .inr ?_
  by_cases h8 : 0x400 ≤ off ∧ off ≤ 0x5DC
  · exact .inl ⟨h8, if_pos h8⟩
  rw [if_neg h8]; refine .inr ?_
  by_cases h9 : 0x600 ≤ off ∧ off ≤ 0x7DC
  · exact .inl ⟨h9, if_pos h9⟩
  rw [if_neg h9]
  exact .inr ⟨⟨h0, h1, h2, h3, h4, h5, h6, h7, h8, h9⟩, rfl⟩

/-- CMD stands at 0x008 alone (20_memory.md R61). -/
theorem atOffset_eq_cmd {off : Nat} : Reg.atOffset off = .cmd ↔ off = 0x008 := by
  constructor
  · intro h
    rcases atOffset_cases off with ⟨-, e⟩ | ⟨-, e⟩ | ⟨ho, -⟩ | ⟨-, e⟩ | ⟨-, e⟩ | ⟨-, e⟩ | ⟨-, e⟩ | ⟨-, e⟩ | ⟨-, e⟩ |
      ⟨-, e⟩ | ⟨-, e⟩ <;> first | exact ho | (rw [e] at h; cases h)
  · rintro rfl; rfl

/-- KEY[i] stands at no other offset. -/
theorem atOffset_eq_key {off i : Nat} (h : Reg.atOffset off = .key i) :
    (0x040 ≤ off ∧ off ≤ 0x05C) ∧ i = (off - 0x040) / 4 := by
  rcases atOffset_cases off with ⟨ho, e⟩ | ⟨ho, e⟩ | ⟨ho, e⟩ | ⟨ho, e⟩ | ⟨ho, e⟩ | ⟨ho, e⟩ | ⟨ho, e⟩ | ⟨ho, e⟩ | ⟨ho, e⟩ |
    ⟨ho, e⟩ | ⟨ho, e⟩ <;> rw [e] at h <;> cases h
  exact ⟨ho, rfl⟩

/-- DIN[i] stands at no other offset. -/
theorem atOffset_eq_din {off i : Nat} (h : Reg.atOffset off = .din i) :
    (0x080 ≤ off ∧ off ≤ 0x09C) ∧ i = (off - 0x080) / 4 := by
  rcases atOffset_cases off with ⟨ho, e⟩ | ⟨ho, e⟩ | ⟨ho, e⟩ | ⟨ho, e⟩ | ⟨ho, e⟩ | ⟨ho, e⟩ | ⟨ho, e⟩ | ⟨ho, e⟩ | ⟨ho, e⟩ |
    ⟨ho, e⟩ | ⟨ho, e⟩ <;> rw [e] at h <;> cases h
  exact ⟨ho, rfl⟩

/-- Where KEY[i] stands. -/
theorem atOffset_key {i : Nat} (h : i < 8) : Reg.atOffset (0x040 + 4 * i) = .key i := by
  rcases atOffset_cases (0x040 + 4 * i) with ⟨h', -⟩ | ⟨h', -⟩ | ⟨h', -⟩ | ⟨h', -⟩ | ⟨h', -⟩ | ⟨-, e⟩ | ⟨h', -⟩ | ⟨h', -⟩ |
    ⟨h', -⟩ | ⟨h', -⟩ | ⟨h', -⟩ <;> first | omega | (rw [e]; congr 1; omega)

/-- Where DIN[i] stands. -/
theorem atOffset_din {i : Nat} (h : i < 8) : Reg.atOffset (0x080 + 4 * i) = .din i := by
  rcases atOffset_cases (0x080 + 4 * i) with ⟨h', -⟩ | ⟨h', -⟩ | ⟨h', -⟩ | ⟨h', -⟩ | ⟨h', -⟩ | ⟨h', -⟩ | ⟨-, e⟩ | ⟨h', -⟩ |
    ⟨h', -⟩ | ⟨h', -⟩ | ⟨h', -⟩ <;> first | omega | (rw [e]; congr 1; omega)

/-- Where DOUT[i] stands. -/
theorem atOffset_dout {i : Nat} (h : i < 8) : Reg.atOffset (0x0C0 + 4 * i) = .dout i := by
  rcases atOffset_cases (0x0C0 + 4 * i) with ⟨h', -⟩ | ⟨h', -⟩ | ⟨h', -⟩ | ⟨h', -⟩ | ⟨h', -⟩ | ⟨h', -⟩ | ⟨h', -⟩ | ⟨-, e⟩ |
    ⟨h', -⟩ | ⟨h', -⟩ | ⟨h', -⟩ <;> first | omega | (rw [e]; congr 1; omega)

/-- Where EKflat[w] stands. -/
theorem atOffset_ek {w : Nat} (h : w < 120) : Reg.atOffset (0x400 + 4 * w) = .ek w := by
  rcases atOffset_cases (0x400 + 4 * w) with ⟨h', -⟩ | ⟨h', -⟩ | ⟨h', -⟩ | ⟨h', -⟩ | ⟨h', -⟩ | ⟨h', -⟩ | ⟨h', -⟩ | ⟨h', -⟩ |
    ⟨-, e⟩ | ⟨h', -⟩ | ⟨h', -⟩ <;> first | omega | (rw [e]; congr 1; omega)

/-- Where DKflat[w] stands. -/
theorem atOffset_dk {w : Nat} (h : w < 120) : Reg.atOffset (0x600 + 4 * w) = .dk w := by
  rcases atOffset_cases (0x600 + 4 * w) with ⟨h', -⟩ | ⟨h', -⟩ | ⟨h', -⟩ | ⟨h', -⟩ | ⟨h', -⟩ | ⟨h', -⟩ | ⟨h', -⟩ | ⟨h', -⟩ |
    ⟨h', -⟩ | ⟨-, e⟩ | ⟨h', -⟩ <;> first | omega | (rw [e]; congr 1; omega)

end Sys2Proof.Machine
end

