-- ==== Sys2Proof/Laws/State.lean ====
section
/-! SUPPORT. One lemma per field for each update of State and of STATUS, so that no proof unfolds an update. -/

namespace Sys2Proof.Machine

/-! ### `Status.accept` -/

@[simp] theorem Status.accept_busy (st : Status) : st.accept.busy = true := rfl
@[simp] theorem Status.accept_kvalid (st : Status) : st.accept.kvalid = st.kvalid := rfl
@[simp] theorem Status.accept_stDone (st : Status) : st.accept.stDone = st.stDone := rfl
@[simp] theorem Status.accept_stPass (st : Status) : st.accept.stPass = st.stPass := rfl
@[simp] theorem Status.accept_err (st : Status) : st.accept.err = .none := rfl

/-! ### `Status.complete` -/

@[simp] theorem Status.complete_busy (e : ErrCode) (st : Status) : (st.complete e).busy = false := rfl
@[simp] theorem Status.complete_kvalid (e : ErrCode) (st : Status) : (st.complete e).kvalid = st.kvalid := rfl
@[simp] theorem Status.complete_stDone (e : ErrCode) (st : Status) : (st.complete e).stDone = st.stDone := rfl
@[simp] theorem Status.complete_stPass (e : ErrCode) (st : Status) : (st.complete e).stPass = st.stPass := rfl
@[simp] theorem Status.complete_err (e : ErrCode) (st : Status) : (st.complete e).err = e := rfl

/-! ### `Status.setKvalid` -/

@[simp] theorem Status.setKvalid_busy (v : Bool) (st : Status) : (st.setKvalid v).busy = st.busy := rfl
@[simp] theorem Status.setKvalid_kvalid (v : Bool) (st : Status) : (st.setKvalid v).kvalid = v := rfl
@[simp] theorem Status.setKvalid_stDone (v : Bool) (st : Status) : (st.setKvalid v).stDone = st.stDone := rfl
@[simp] theorem Status.setKvalid_stPass (v : Bool) (st : Status) : (st.setKvalid v).stPass = st.stPass := rfl
@[simp] theorem Status.setKvalid_err (v : Bool) (st : Status) : (st.setKvalid v).err = st.err := rfl

/-! ### `Status.cacheSelfTest` -/

@[simp] theorem Status.cacheSelfTest_busy (b : Bool) (st : Status) : (st.cacheSelfTest b).busy = st.busy := rfl
@[simp] theorem Status.cacheSelfTest_kvalid (b : Bool) (st : Status) : (st.cacheSelfTest b).kvalid = st.kvalid := rfl
@[simp] theorem Status.cacheSelfTest_stDone (b : Bool) (st : Status) : (st.cacheSelfTest b).stDone = true := rfl
@[simp] theorem Status.cacheSelfTest_stPass (b : Bool) (st : Status) : (st.cacheSelfTest b).stPass = b := rfl
@[simp] theorem Status.cacheSelfTest_err (b : Bool) (st : Status) : (st.cacheSelfTest b).err = st.err := rfl

/-! ### `acceptWith` -/

@[simp] theorem acceptWith_status (h : Nat) (v : Word) (s : State) : (acceptWith h v s).status = s.status.accept := rfl
@[simp] theorem acceptWith_kinfo (h : Nat) (v : Word) (s : State) : (acceptWith h v s).kinfo = s.kinfo := rfl
@[simp] theorem acceptWith_key (h : Nat) (v : Word) (s : State) : (acceptWith h v s).key = s.key := rfl
@[simp] theorem acceptWith_din (h : Nat) (v : Word) (s : State) : (acceptWith h v s).din = s.din := rfl
@[simp] theorem acceptWith_dout (h : Nat) (v : Word) (s : State) : (acceptWith h v s).dout = s.dout := rfl
@[simp] theorem acceptWith_ek (h : Nat) (v : Word) (s : State) : (acceptWith h v s).ek = s.ek := rfl
@[simp] theorem acceptWith_dk (h : Nat) (v : Word) (s : State) : (acceptWith h v s).dk = s.dk := rfl
@[simp] theorem acceptWith_pending (h : Nat) (v : Word) (s : State) : (acceptWith h v s).pending = v := rfl
@[simp] theorem acceptWith_inputs (h : Nat) (v : Word) (s : State) : (acceptWith h v s).inputs = s.inputs := rfl
@[simp] theorem acceptWith_returned (h : Nat) (v : Word) (s : State) : (acceptWith h v s).returned = s.returned := rfl
@[simp] theorem acceptWith_awaiting (h : Nat) (v : Word) (s : State) : (acceptWith h v s).awaiting = true := rfl
@[simp] theorem acceptWith_accepted (h : Nat) (v : Word) (s : State) : (acceptWith h v s).accepted = s.accepted + 1 := rfl
@[simp] theorem acceptWith_hold (h : Nat) (v : Word) (s : State) : (acceptWith h v s).hold = h := rfl

/-! ### `accept` -/

@[simp] theorem accept_status (v : Word) (s : State) : (accept v s).status = s.status.accept := rfl
@[simp] theorem accept_kinfo (v : Word) (s : State) : (accept v s).kinfo = s.kinfo := rfl
@[simp] theorem accept_key (v : Word) (s : State) : (accept v s).key = s.key := rfl
@[simp] theorem accept_din (v : Word) (s : State) : (accept v s).din = s.din := rfl
@[simp] theorem accept_dout (v : Word) (s : State) : (accept v s).dout = s.dout := rfl
@[simp] theorem accept_ek (v : Word) (s : State) : (accept v s).ek = s.ek := rfl
@[simp] theorem accept_dk (v : Word) (s : State) : (accept v s).dk = s.dk := rfl
@[simp] theorem accept_pending (v : Word) (s : State) : (accept v s).pending = v := rfl
@[simp] theorem accept_inputs (v : Word) (s : State) : (accept v s).inputs = s.inputs := rfl
@[simp] theorem accept_returned (v : Word) (s : State) : (accept v s).returned = s.returned := rfl
@[simp] theorem accept_awaiting (v : Word) (s : State) : (accept v s).awaiting = true := rfl
@[simp] theorem accept_accepted (v : Word) (s : State) : (accept v s).accepted = s.accepted + 1 := rfl
@[simp] theorem accept_hold (v : Word) (s : State) : (accept v s).hold = Config.inputsBeforeCompletion { s with pending := v } := rfl

/-! ### `complete` -/

@[simp] theorem complete_status (e : ErrCode) (s : State) : (complete e s).status = s.status.complete e := rfl
@[simp] theorem complete_kinfo (e : ErrCode) (s : State) : (complete e s).kinfo = s.kinfo := rfl
@[simp] theorem complete_key (e : ErrCode) (s : State) : (complete e s).key = s.key := rfl
@[simp] theorem complete_din (e : ErrCode) (s : State) : (complete e s).din = s.din := rfl
@[simp] theorem complete_dout (e : ErrCode) (s : State) : (complete e s).dout = s.dout := rfl
@[simp] theorem complete_ek (e : ErrCode) (s : State) : (complete e s).ek = s.ek := rfl
@[simp] theorem complete_dk (e : ErrCode) (s : State) : (complete e s).dk = s.dk := rfl
@[simp] theorem complete_pending (e : ErrCode) (s : State) : (complete e s).pending = s.pending := rfl
@[simp] theorem complete_inputs (e : ErrCode) (s : State) : (complete e s).inputs = s.inputs := rfl
@[simp] theorem complete_returned (e : ErrCode) (s : State) : (complete e s).returned = s.returned := rfl
@[simp] theorem complete_awaiting (e : ErrCode) (s : State) : (complete e s).awaiting = s.awaiting := rfl
@[simp] theorem complete_accepted (e : ErrCode) (s : State) : (complete e s).accepted = s.accepted := rfl
@[simp] theorem complete_hold (e : ErrCode) (s : State) : (complete e s).hold = s.hold := rfl

/-! ### `installKey` -/

@[simp] theorem installKey_status (k : SessionKey) (s : State) : (installKey k s).status = s.status.setKvalid true := rfl
@[simp] theorem installKey_kinfo (k : SessionKey) (s : State) : (installKey k s).kinfo = k.kinfo := rfl
@[simp] theorem installKey_key (k : SessionKey) (s : State) : (installKey k s).key = s.key := rfl
@[simp] theorem installKey_din (k : SessionKey) (s : State) : (installKey k s).din = s.din := rfl
@[simp] theorem installKey_dout (k : SessionKey) (s : State) : (installKey k s).dout = s.dout := rfl
@[simp] theorem installKey_ek (k : SessionKey) (s : State) : (installKey k s).ek = k.ek := rfl
@[simp] theorem installKey_dk (k : SessionKey) (s : State) : (installKey k s).dk = k.dk := rfl
@[simp] theorem installKey_pending (k : SessionKey) (s : State) : (installKey k s).pending = s.pending := rfl
@[simp] theorem installKey_inputs (k : SessionKey) (s : State) : (installKey k s).inputs = s.inputs := rfl
@[simp] theorem installKey_returned (k : SessionKey) (s : State) : (installKey k s).returned = s.returned := rfl
@[simp] theorem installKey_awaiting (k : SessionKey) (s : State) : (installKey k s).awaiting = s.awaiting := rfl
@[simp] theorem installKey_accepted (k : SessionKey) (s : State) : (installKey k s).accepted = s.accepted := rfl
@[simp] theorem installKey_hold (k : SessionKey) (s : State) : (installKey k s).hold = s.hold := rfl

/-! ### `writeOut` -/

@[simp] theorem writeOut_status (out : List Byte) (s : State) : (writeOut out s).status = s.status := rfl
@[simp] theorem writeOut_kinfo (out : List Byte) (s : State) : (writeOut out s).kinfo = s.kinfo := rfl
@[simp] theorem writeOut_key (out : List Byte) (s : State) : (writeOut out s).key = s.key := rfl
@[simp] theorem writeOut_din (out : List Byte) (s : State) : (writeOut out s).din = s.din := rfl
@[simp] theorem writeOut_dout (out : List Byte) (s : State) : (writeOut out s).dout = wordsOf 8 ((List.range 8).map (bytesWord out)) := rfl
@[simp] theorem writeOut_ek (out : List Byte) (s : State) : (writeOut out s).ek = s.ek := rfl
@[simp] theorem writeOut_dk (out : List Byte) (s : State) : (writeOut out s).dk = s.dk := rfl
@[simp] theorem writeOut_pending (out : List Byte) (s : State) : (writeOut out s).pending = s.pending := rfl
@[simp] theorem writeOut_inputs (out : List Byte) (s : State) : (writeOut out s).inputs = s.inputs := rfl
@[simp] theorem writeOut_returned (out : List Byte) (s : State) : (writeOut out s).returned = s.returned := rfl
@[simp] theorem writeOut_awaiting (out : List Byte) (s : State) : (writeOut out s).awaiting = s.awaiting := rfl
@[simp] theorem writeOut_accepted (out : List Byte) (s : State) : (writeOut out s).accepted = s.accepted := rfl
@[simp] theorem writeOut_hold (out : List Byte) (s : State) : (writeOut out s).hold = s.hold := rfl

/-! ### `cacheSelfTest` -/

@[simp] theorem cacheSelfTest_status (b : Bool) (s : State) : (cacheSelfTest b s).status = s.status.cacheSelfTest b := rfl
@[simp] theorem cacheSelfTest_kinfo (b : Bool) (s : State) : (cacheSelfTest b s).kinfo = s.kinfo := rfl
@[simp] theorem cacheSelfTest_key (b : Bool) (s : State) : (cacheSelfTest b s).key = s.key := rfl
@[simp] theorem cacheSelfTest_din (b : Bool) (s : State) : (cacheSelfTest b s).din = s.din := rfl
@[simp] theorem cacheSelfTest_dout (b : Bool) (s : State) : (cacheSelfTest b s).dout = s.dout := rfl
@[simp] theorem cacheSelfTest_ek (b : Bool) (s : State) : (cacheSelfTest b s).ek = s.ek := rfl
@[simp] theorem cacheSelfTest_dk (b : Bool) (s : State) : (cacheSelfTest b s).dk = s.dk := rfl
@[simp] theorem cacheSelfTest_pending (b : Bool) (s : State) : (cacheSelfTest b s).pending = s.pending := rfl
@[simp] theorem cacheSelfTest_inputs (b : Bool) (s : State) : (cacheSelfTest b s).inputs = s.inputs := rfl
@[simp] theorem cacheSelfTest_returned (b : Bool) (s : State) : (cacheSelfTest b s).returned = s.returned := rfl
@[simp] theorem cacheSelfTest_awaiting (b : Bool) (s : State) : (cacheSelfTest b s).awaiting = s.awaiting := rfl
@[simp] theorem cacheSelfTest_accepted (b : Bool) (s : State) : (cacheSelfTest b s).accepted = s.accepted := rfl
@[simp] theorem cacheSelfTest_hold (b : Bool) (s : State) : (cacheSelfTest b s).hold = s.hold := rfl

/-! ### `clearMaterial` -/

@[simp] theorem clearMaterial_status (s : State) : (clearMaterial s).status = s.status.setKvalid false := rfl
@[simp] theorem clearMaterial_kinfo (s : State) : (clearMaterial s).kinfo = SessionKey.empty.kinfo := rfl
@[simp] theorem clearMaterial_key (s : State) : (clearMaterial s).key = Vector.replicate 8 0 := rfl
@[simp] theorem clearMaterial_din (s : State) : (clearMaterial s).din = Vector.replicate 8 0 := rfl
@[simp] theorem clearMaterial_dout (s : State) : (clearMaterial s).dout = Vector.replicate 8 0 := rfl
@[simp] theorem clearMaterial_ek (s : State) : (clearMaterial s).ek = SessionKey.empty.ek := rfl
@[simp] theorem clearMaterial_dk (s : State) : (clearMaterial s).dk = SessionKey.empty.dk := rfl
@[simp] theorem clearMaterial_pending (s : State) : (clearMaterial s).pending = s.pending := rfl
@[simp] theorem clearMaterial_inputs (s : State) : (clearMaterial s).inputs = s.inputs := rfl
@[simp] theorem clearMaterial_returned (s : State) : (clearMaterial s).returned = s.returned := rfl
@[simp] theorem clearMaterial_awaiting (s : State) : (clearMaterial s).awaiting = s.awaiting := rfl
@[simp] theorem clearMaterial_accepted (s : State) : (clearMaterial s).accepted = s.accepted := rfl
@[simp] theorem clearMaterial_hold (s : State) : (clearMaterial s).hold = s.hold := rfl

/-! ### `resetCore` -/

@[simp] theorem resetCore_status (s : State) : (resetCore s).status = State.reset.status := rfl
@[simp] theorem resetCore_kinfo (s : State) : (resetCore s).kinfo = State.reset.kinfo := rfl
@[simp] theorem resetCore_key (s : State) : (resetCore s).key = State.reset.key := rfl
@[simp] theorem resetCore_din (s : State) : (resetCore s).din = State.reset.din := rfl
@[simp] theorem resetCore_dout (s : State) : (resetCore s).dout = State.reset.dout := rfl
@[simp] theorem resetCore_ek (s : State) : (resetCore s).ek = State.reset.ek := rfl
@[simp] theorem resetCore_dk (s : State) : (resetCore s).dk = State.reset.dk := rfl
@[simp] theorem resetCore_pending (s : State) : (resetCore s).pending = State.reset.pending := rfl
@[simp] theorem resetCore_inputs (s : State) : (resetCore s).inputs = s.inputs := rfl
@[simp] theorem resetCore_returned (s : State) : (resetCore s).returned = s.returned := rfl
@[simp] theorem resetCore_awaiting (s : State) : (resetCore s).awaiting = State.reset.awaiting := rfl
@[simp] theorem resetCore_accepted (s : State) : (resetCore s).accepted = s.accepted := rfl
@[simp] theorem resetCore_hold (s : State) : (resetCore s).hold = State.reset.hold := rfl

/-! ### `noteRead` -/

@[simp] theorem noteRead_status (off : Nat) (v : Word) (s : State) : (noteRead off v s).status = s.status := rfl
@[simp] theorem noteRead_kinfo (off : Nat) (v : Word) (s : State) : (noteRead off v s).kinfo = s.kinfo := rfl
@[simp] theorem noteRead_key (off : Nat) (v : Word) (s : State) : (noteRead off v s).key = s.key := rfl
@[simp] theorem noteRead_din (off : Nat) (v : Word) (s : State) : (noteRead off v s).din = s.din := rfl
@[simp] theorem noteRead_dout (off : Nat) (v : Word) (s : State) : (noteRead off v s).dout = s.dout := rfl
@[simp] theorem noteRead_ek (off : Nat) (v : Word) (s : State) : (noteRead off v s).ek = s.ek := rfl
@[simp] theorem noteRead_dk (off : Nat) (v : Word) (s : State) : (noteRead off v s).dk = s.dk := rfl
@[simp] theorem noteRead_pending (off : Nat) (v : Word) (s : State) : (noteRead off v s).pending = s.pending := rfl
@[simp] theorem noteRead_inputs (off : Nat) (v : Word) (s : State) : (noteRead off v s).inputs = s.inputs := rfl
@[simp] theorem noteRead_returned (off : Nat) (v : Word) (s : State) : (noteRead off v s).returned = (off, v) :: s.returned := rfl
@[simp] theorem noteRead_awaiting (off : Nat) (v : Word) (s : State) : (noteRead off v s).awaiting = (s.awaiting && !(off == statusOffset && !v.getLsbD 0)) := rfl
@[simp] theorem noteRead_accepted (off : Nat) (v : Word) (s : State) : (noteRead off v s).accepted = s.accepted := rfl
@[simp] theorem noteRead_hold (off : Nat) (v : Word) (s : State) : (noteRead off v s).hold = s.hold := rfl

/-! ### `advance` -/

@[simp] theorem advance_status (rest : List Input) (s : State) : (advance rest s).status = s.status := rfl
@[simp] theorem advance_kinfo (rest : List Input) (s : State) : (advance rest s).kinfo = s.kinfo := rfl
@[simp] theorem advance_key (rest : List Input) (s : State) : (advance rest s).key = s.key := rfl
@[simp] theorem advance_din (rest : List Input) (s : State) : (advance rest s).din = s.din := rfl
@[simp] theorem advance_dout (rest : List Input) (s : State) : (advance rest s).dout = s.dout := rfl
@[simp] theorem advance_ek (rest : List Input) (s : State) : (advance rest s).ek = s.ek := rfl
@[simp] theorem advance_dk (rest : List Input) (s : State) : (advance rest s).dk = s.dk := rfl
@[simp] theorem advance_pending (rest : List Input) (s : State) : (advance rest s).pending = s.pending := rfl
@[simp] theorem advance_inputs (rest : List Input) (s : State) : (advance rest s).inputs = rest := rfl
@[simp] theorem advance_returned (rest : List Input) (s : State) : (advance rest s).returned = s.returned := rfl
@[simp] theorem advance_awaiting (rest : List Input) (s : State) : (advance rest s).awaiting = s.awaiting := rfl
@[simp] theorem advance_accepted (rest : List Input) (s : State) : (advance rest s).accepted = s.accepted := rfl
@[simp] theorem advance_hold (rest : List Input) (s : State) : (advance rest s).hold = s.hold - 1 := rfl

end Sys2Proof.Machine
end

