-- ==== Sys2Proof/Laws/Ops.lean ====
section
/-! SUPPORT. What each shared operation and each meaning can do, said once: what a read or a write of a register does, and
the cases of every meaning. -/

namespace Sys2Proof.Machine

/-! ### Registers -/

/-- A read of a register other than STATUS does not see an update of STATUS alone. -/
theorem readReg_complete {r : Reg} (h : r ≠ .status) (e : ErrCode) (s : State) :
    readReg r (complete e s) = readReg r s := by
  cases r <;> first | rfl | exact absurd rfl h

/-- What a write to a register does: KEY or DIN takes the word, CMD accepts it, or nothing happens
(20_memory.md R61, R64, R65). -/
theorem writeReg_cases (r : Reg) (v : Word) (s : State) :
    (∃ i, r = .key i ∧ writeReg r v s = { s with key := setWord s.key i v }) ∨
    (∃ i, r = .din i ∧ writeReg r v s = { s with din := setWord s.din i v }) ∨
    (r = .cmd ∧ writeReg r v s = accept v s) ∨
    ((∀ i, r ≠ .key i) ∧ (∀ i, r ≠ .din i) ∧ r ≠ .cmd ∧ writeReg r v s = s) := by
  cases r <;> simp [writeReg]

/-- A word of a buffer after a write to it (20_memory.md R71). -/
theorem setWord_getElem (buf : Vector Word 8) (i : Nat) (v : Word) (j : Nat) (h : j < 8) :
    (setWord buf i v)[j] = if i = j then v else buf[j] := by
  simp [setWord, Vector.getElem_setIfInBounds]

/-- The same through the read of one word. -/
theorem wordAt_setWord (buf : Vector Word 8) (i : Nat) (v : Word) {j : Nat} (h : j < 8) :
    wordAt (setWord buf i v) j = if i = j then v else wordAt buf j := by
  rw [wordAt_eq _ h, wordAt_eq _ h, setWord_getElem]

/-! ### The meanings, case by case -/

/-- MAKEKEY's three outcomes (41_makekey.md R150, R151). -/
theorem execMakekey_cases (klen blen : Nat) (s : State) :
    (¬ SupportedSize klen ∧ execMakekey klen blen s = .next (complete .invalidKey s)) ∨
    (SupportedSize klen ∧ ¬ SupportedSize blen ∧ execMakekey klen blen s = .next (complete .invalidArgument s)) ∨
    (SupportedSize klen ∧ SupportedSize blen ∧ execMakekey klen blen s =
      .next (complete .none (installKey (makeSessionKey (bufferBytes s.key klen) (klen / 4) (blen / 4)) s))) := by
  unfold execMakekey
  split
  · next h => exact .inl ⟨h, rfl⟩
  · next h =>
    split
    · next hb => exact .inr (.inl ⟨not_not.mp h, hb, rfl⟩)
    · next hb => exact .inr (.inr ⟨not_not.mp h, not_not.mp hb, rfl⟩)

/-- The three outcomes ENCRYPT and DECRYPT share (42_block.md R170, R172). -/
theorem blockCommand_cases (f : List Byte → List Byte) (blen : Nat) (s : State) :
    (s.status.kvalid = false ∧ blockCommand f blen s = .next (complete .noKey s)) ∨
    (s.status.kvalid = true ∧ blen ≠ 4 * s.kinfo.nb.toNat ∧
      blockCommand f blen s = .next (complete .invalidArgument s)) ∨
    (s.status.kvalid = true ∧ blen = 4 * s.kinfo.nb.toNat ∧
      blockCommand f blen s = .next (complete .none (writeOut (f (bufferBytes s.din blen)) s))) := by
  unfold blockCommand
  split
  · next h => exact .inl ⟨h, rfl⟩
  · next h =>
    have hk : s.status.kvalid = true := by simpa using h
    split
    · next hb => exact .inr (.inl ⟨hk, hb, rfl⟩)
    · next hb => exact .inr (.inr ⟨hk, not_not.mp hb, rfl⟩)

/-- SELFTEST's two outcomes (43_control.md R192). -/
theorem execSelftest_cases (s : State) :
    (s.status.stDone = true ∧ execSelftest s = .next (complete .none s)) ∨
    (s.status.stDone = false ∧ execSelftest s = .next (complete .none (cacheSelfTest selfTestResult s))) := by
  unfold execSelftest
  cases h : s.status.stDone <;> simp

end Sys2Proof.Machine
end

