-- ==== Sys2Proof/Laws/PerInstr.lean ====
section
/-! SUPPORT. Per-command facts. Family `Opcode`: the encoding of a well-formed command carries the match value of its row
of the opcode table under the row's mask (30_encoding.md R95). -/

namespace Sys2Proof.Laws

/-- The encoding's fixed bits are those of the command's row (30_encoding.md R94, R95, R98). -/
def Opcode.Statement (i : Instr) : Prop := i.wellFormed = true → encode i &&& opcodeMask = opcodeMatch i

/-- A length within its six-bit field, placed in it, touches no bit of the mask. -/
theorem length_masked (n : Nat) (h : n ≤ 63) (place : Nat) (hp : place = 8 ∨ place = 16) :
    placeLength n place &&& opcodeMask = 0 := by
  have key : ∀ n < 64, placeLength n 8 &&& opcodeMask = 0 ∧ placeLength n 16 &&& opcodeMask = 0 := by decide +kernel
  rcases hp with rfl | rfl
  · exact (key n (by omega)).1
  · exact (key n (by omega)).2

/-- `and` over `or`, in the order the encoder builds its words. -/
theorem or_masked (a b m : Word) : (a ||| b) &&& m = (a &&& m) ||| (b &&& m) := by
  ext i hi
  simp [Bool.and_or_distrib_right]

theorem Opcode.nop : Opcode.Statement .nop := fun _ => by decide

theorem Opcode.makekey (klen blen : Nat) : Opcode.Statement (.makekey klen blen) := by
  intro h
  have hl : klen ≤ 63 ∧ blen ≤ 63 := by simpa [Instr.wellFormed, lengthEncodable] using h
  simp only [encode, opcodeMatch, or_masked, length_masked _ hl.1 8 (.inl rfl),
    length_masked _ hl.2 16 (.inr rfl)]
  decide

theorem Opcode.encrypt (blen : Nat) : Opcode.Statement (.encrypt blen) := by
  intro h
  have hl : blen ≤ 63 := by simpa [Instr.wellFormed, lengthEncodable] using h
  simp only [encode, opcodeMatch, or_masked, length_masked _ hl 16 (.inr rfl)]
  decide

theorem Opcode.decrypt (blen : Nat) : Opcode.Statement (.decrypt blen) := by
  intro h
  have hl : blen ≤ 63 := by simpa [Instr.wellFormed, lengthEncodable] using h
  simp only [encode, opcodeMatch, or_masked, length_masked _ hl 16 (.inr rfl)]
  decide

theorem Opcode.selftest : Opcode.Statement .selftest := fun _ => by decide

theorem Opcode.zeroize : Opcode.Statement .zeroize := fun _ => by decide

end Sys2Proof.Laws
end

