-- ==== Sys2Proof/Laws/Step.lean ====
section
/-! SUPPORT. What a step can do, said once: whose turn it is, what a bus access does, and the cases of a step, a run
that goes on, and that a write leaves every other place of the window alone. -/

namespace Sys2Proof.Machine

/-- A bus address in the window names its offset (20_memory.md R60). -/
@[simp] theorem windowOffset_base_add {off : Nat} (h : off < windowSize) : windowOffset (Config.base + off) = some off := by
  simp [windowOffset, h]

/-- What an access at an offset of the window does: a bus error, a protocol violation, or its effect
(60_exceptions.md R218). -/
theorem windowAccess_cases (off : Nat) (width : Width) (kind : AccessKind) (s : State) :
    ((width ≠ .word ∨ off % 4 ≠ 0) ∧ windowAccess off width kind s = .fault (.busError off width kind.direction)) ∨
    (width = .word ∧ off % 4 = 0 ∧ s.status.busy = true ∧ allowedWhileBusy (Reg.atOffset off) kind = false ∧
      windowAccess off width kind s = .fault (.protocolViolation off kind.direction)) ∨
    (width = .word ∧ off % 4 = 0 ∧ (s.status.busy = false ∨ allowedWhileBusy (Reg.atOffset off) kind = true) ∧
      windowAccess off width kind s = .next (performAccess off kind s)) := by
  by_cases hw : width ≠ .word ∨ off % 4 ≠ 0
  · exact .inl ⟨hw, by simp [windowAccess, hw]⟩
  · obtain ⟨h4, ho⟩ : width = .word ∧ off % 4 = 0 := by simpa using hw
    refine .inr ?_
    cases hb : s.status.busy <;> cases ha : allowedWhileBusy (Reg.atOffset off) kind <;>
      simp [windowAccess, h4, ho, hb, ha]

/-- An access at an offset of the window, by its bus address (20_memory.md R60). -/
theorem busAccess_window {off : Nat} (h : off < windowSize) (width : Width) (kind : AccessKind) (s : State) :
    busAccess { addr := Config.base + off, width := width, kind := kind } s = windowAccess off width kind s := by
  simp [busAccess, h]

/-- An access outside the window (log entry 4). -/
theorem busAccess_outside {a : Access} (h : windowOffset a.addr = none) (s : State) :
    busAccess a s = .fault (.outsideWindow a.addr a.kind.direction) := by
  simp [busAccess, h]

/-- It is the core's turn exactly when a command is pending and no input goes before its completion. -/
theorem coreTurn_iff (s : State) : coreTurn s = true ↔ s.status.busy = true ∧ (s.hold = 0 ∨ s.inputs = []) := by
  simp [coreTurn]

/-- With no command pending it is the host's turn (10_state.md R20). -/
theorem coreTurn_of_idle {s : State} (h : s.status.busy = false) : coreTurn s = false := by
  simp [coreTurn, h]

/-- A step on the core's turn. -/
theorem step_core {s : State} (h : coreTurn s = true) : step s = coreStep s := by simp [step, h]

/-- A step on the host's turn. -/
theorem step_host {s : State} (h : coreTurn s = false) : step s = hostTurn s := by simp [step, h]

/-- The completion step of a decoded command and of an illegal word (43_control.md R190). -/
theorem coreStep_ok {s : State} {i : Instr} (h : decode s.pending = .ok i) : coreStep s = exec i s := by
  simp [coreStep, h]

theorem coreStep_error {s : State} {e : Illegal} (h : decode s.pending = .error e) :
    coreStep s = .next (completeIllegal s) := by
  simp [coreStep, h]

/-- The host's turn, input by input. -/
theorem hostTurn_nil {s : State} (h : s.inputs = []) : hostTurn s = .next s := by simp [hostTurn, h]

theorem hostTurn_access {s : State} {a : Access} {rest : List Input} (h : s.inputs = .access a :: rest) :
    hostTurn s = busAccess a (advance rest s) := by
  simp [hostTurn, h]

theorem hostTurn_reset {s : State} {rest : List Input} (h : s.inputs = .reset :: rest) :
    hostTurn s = .next (resetCore (advance rest s)) := by
  simp [hostTurn, h]

/-- A poll of STATUS is always admitted (60_exceptions.md R215). -/
theorem hostTurn_wait {s : State} {rest : List Input} (h : s.inputs = .wait :: rest) :
    hostTurn s = .next (noteRead statusOffset s.status.word
      (advance (if s.status.busy then .wait :: rest else rest) s)) := by
  simp [hostTurn, h, windowAccess, statusOffset, Reg.atOffset, allowedWhileBusy, performAccess, readReg]

/-- Every way a step can answer a next state: the completion of a command or of an illegal word, an idle step, an access
of the window, a poll, a reset. -/
theorem step_next_cases {s t : State} (h : step s = .next t) :
    (coreTurn s = true ∧ ∃ i, decode s.pending = .ok i ∧ exec i s = .next t) ∨
    (coreTurn s = true ∧ (∃ e, decode s.pending = .error e) ∧ t = completeIllegal s) ∨
    (coreTurn s = false ∧ s.inputs = [] ∧ t = s) ∨
    (coreTurn s = false ∧ ∃ a rest off, s.inputs = .access a :: rest ∧ windowOffset a.addr = some off ∧ a.width = .word ∧
      off % 4 = 0 ∧ (s.status.busy = false ∨ allowedWhileBusy (Reg.atOffset off) a.kind = true) ∧
      t = performAccess off a.kind (advance rest s)) ∨
    (coreTurn s = false ∧ ∃ rest, s.inputs = .wait :: rest ∧
      t = noteRead statusOffset s.status.word (advance (if s.status.busy then .wait :: rest else rest) s)) ∨
    (coreTurn s = false ∧ ∃ rest, s.inputs = .reset :: rest ∧ t = resetCore (advance rest s)) := by
  cases hc : coreTurn s with
  | true =>
    rw [step_core hc] at h
    cases hd : decode s.pending with
    | ok i => rw [coreStep_ok hd] at h; exact .inl ⟨rfl, i, rfl, h⟩
    | error e =>
      rw [coreStep_error hd] at h
      exact .inr (.inl ⟨rfl, ⟨e, rfl⟩, (Host.Outcome.next.inj h).symm⟩)
  | false =>
    rw [step_host hc] at h
    refine .inr (.inr ?_)
    cases hi : s.inputs with
    | nil =>
      rw [hostTurn_nil hi] at h
      exact .inl ⟨rfl, rfl, (Host.Outcome.next.inj h).symm⟩
    | cons x rest =>
      cases x with
      | wait =>
        rw [hostTurn_wait hi] at h
        exact .inr (.inr (.inl ⟨rfl, rest, rfl, (Host.Outcome.next.inj h).symm⟩))
      | reset =>
        rw [hostTurn_reset hi] at h
        exact .inr (.inr (.inr ⟨rfl, rest, rfl, (Host.Outcome.next.inj h).symm⟩))
      | access a =>
        refine .inr (.inl ⟨rfl, a, rest, ?_⟩)
        rw [hostTurn_access hi] at h
        cases ho : windowOffset a.addr with
        | none => rw [busAccess_outside ho] at h; cases h
        | some off =>
          simp only [busAccess, ho] at h
          rcases windowAccess_cases off a.width a.kind (advance rest s) with
            ⟨-, hf⟩ | ⟨-, -, -, -, hf⟩ | ⟨hw, hm, hb, hn⟩
          · rw [hf] at h; cases h
          · rw [hf] at h; cases h
          · rw [hn] at h
            exact ⟨off, rfl, rfl, hw, hm, by simpa using hb, (Host.Outcome.next.inj h).symm⟩

/-- A run goes on from the next state of its first step. -/
theorem run_next (M : Host.Core) {n : Nat} {s t : M.State} (h : M.step s = .next t) : M.run (n + 1) s = M.run n t := by
  rw [Host.Core.run, h]

/-- The same of this machine, in terms of its step. -/
theorem core_run_next {n : Nat} {s t : State} (h : step s = .next t) :
    Sys2Proof.core.run (n + 1) s = Sys2Proof.core.run n t :=
  run_next Sys2Proof.core h

/-- A write to KEY or DIN is what the next read of that offset returns (20_memory.md R71). -/
theorem readReg_writeReg_same {off : Nat} (v : Word) (s : State)
    (h : (0x040 ≤ off ∧ off ≤ 0x05C) ∨ (0x080 ≤ off ∧ off ≤ 0x09C)) :
    readReg (Reg.atOffset off) (writeReg (Reg.atOffset off) v s) = v := by
  rcases atOffset_cases off with ⟨ho, e⟩ | ⟨ho, e⟩ | ⟨ho, e⟩ | ⟨ho, e⟩ | ⟨ho, e⟩ | ⟨ho, e⟩ | ⟨ho, e⟩ | ⟨ho, e⟩ | ⟨ho, e⟩ |
    ⟨ho, e⟩ | ⟨ho, e⟩ <;>
  first
  | omega
  | (rw [e]; simp only [writeReg, readReg]; rw [wordAt_setWord _ _ _ (by omega), if_pos rfl])

/-- A write to any offset but CMD's leaves every other word of the window as it reads (20_memory.md R69). -/
theorem readReg_writeReg_other {off o : Nat} (v : Word) (s : State) (h4 : off % 4 = 0) (h8 : off ≠ 0x008)
    (ho4 : o % 4 = 0) (hne : o ≠ off) :
    readReg (Reg.atOffset o) (writeReg (Reg.atOffset off) v s) = readReg (Reg.atOffset o) s := by
  rcases writeReg_cases (Reg.atOffset off) v s with ⟨i, hr, e⟩ | ⟨i, hr, e⟩ | ⟨hr, -⟩ | ⟨-, -, -, e⟩
  · rw [e]
    rcases atOffset_cases o with ⟨h, a⟩ | ⟨h, a⟩ | ⟨h, a⟩ | ⟨h, a⟩ | ⟨h, a⟩ | ⟨h, a⟩ | ⟨h, a⟩ | ⟨h, a⟩ | ⟨h, a⟩ | ⟨h, a⟩ |
      ⟨h, a⟩ <;> rw [a] <;> try rfl
    have := atOffset_eq_key hr
    simp only [readReg]
    rw [wordAt_setWord _ _ _ (by omega), if_neg (by omega)]
  · rw [e]
    rcases atOffset_cases o with ⟨h, a⟩ | ⟨h, a⟩ | ⟨h, a⟩ | ⟨h, a⟩ | ⟨h, a⟩ | ⟨h, a⟩ | ⟨h, a⟩ | ⟨h, a⟩ | ⟨h, a⟩ | ⟨h, a⟩ |
      ⟨h, a⟩ <;> rw [a] <;> try rfl
    have := atOffset_eq_din hr
    simp only [readReg]
    rw [wordAt_setWord _ _ _ (by omega), if_neg (by omega)]
  · exact absurd (atOffset_eq_cmd.1 hr) h8
  · rw [e]

end Sys2Proof.Machine
end

