-- ==== Sys2Proof/Tests/Slice0.lean ====
section
/-! SUPPORT. The model's own tests, each with the place of the spec its expected result comes from, and for every statement
with hypotheses a witness that meets them. -/

namespace Sys2Proof.Tests

open Sys2Proof Sys2Proof.Machine

/-! ### Helpers -/

/-- An idle machine with KVALID and ST_DONE, ST_PASS as given, and things for the host to do. -/
def idle (kvalid tested : Bool) (ins : List Input) : State :=
  { State.reset with
    status := { busy := false, kvalid := kvalid, stDone := tested, stPass := tested, err := .none }, inputs := ins }

/-- A machine with a command word pending. -/
def pendingWord (w : Word) (hold : Nat) (ins : List Input) : State :=
  { idle false false ins with
    status := { busy := true, kvalid := false, stDone := false, stPass := false, err := .none }
    pending := w, awaiting := true, hold := hold }

/-- An idle machine that holds the AES-128 session key of 42_block.md R170's example, with a block in DIN. -/
def withExampleKey (block : List Word) : State :=
  { installKey (makeSessionKey (patternBytes 16) 4 4) (idle false false []) with din := wordsOf 8 block }

/-- What the next state of an outcome is asked, or false. -/
def onNext (o : Host.Outcome State Fault Refusal) (q : State → Bool) : Bool :=
  match o with
  | .next s => q s
  | .fault _ => false
  | .refused _ => false

/-! ### WellFormed refuses what has no encoding (30_encoding.md R98) -/

theorem test_wellFormed_refuses_klen_64 : (Instr.makekey 64 16).wellFormed = false := by decide
theorem test_wellFormed_refuses_makekey_blen_64 : (Instr.makekey 16 64).wellFormed = false := by decide
theorem test_wellFormed_refuses_encrypt_64 : (Instr.encrypt 64).wellFormed = false := by decide
theorem test_wellFormed_refuses_decrypt_64 : (Instr.decrypt 64).wellFormed = false := by decide
theorem test_wellFormed_admits_63 : (Instr.makekey 63 63).wellFormed = true := by decide

/-! ### Words written out from 30_encoding.md R91: RSV2 (10), BLEN (6), RSV1 (2), KLEN (6), OP (8) -/

theorem test_decode_nop : decode (0b0000000000_111111_00_111111_00000000#32) = .ok .nop := by decide
theorem test_decode_makekey : decode (0b0000000000_100000_00_011111_00000001#32) = .ok (.makekey 31 32) := by decide
theorem test_decode_encrypt : decode (0b0000000000_010000_00_111111_00000010#32) = .ok (.encrypt 16) := by decide
theorem test_decode_decrypt : decode (0b0000000000_011000_00_000000_00000011#32) = .ok (.decrypt 24) := by decide
theorem test_decode_selftest : decode (0b0000000000_000000_00_000001_00000100#32) = .ok .selftest := by decide
theorem test_decode_zeroize : decode (0b0000000000_000000_00_000000_00000101#32) = .ok .zeroize := by decide
/-- 95_test_vectors.md L2-11: bit 15, bit 22, OP 0x06. -/
theorem test_decode_illegal : decode (0b0000000000_000000_10_000000_00000010#32) = .error .reservedBits ∧
    decode (0b0000000001_000000_00_000000_00000010#32) = .error .reservedBits ∧
    decode (0b0000000000_000000_00_000000_00000110#32) = .error (.reservedOpcode 6) := by decide
/-- 30_encoding.md R100. -/
theorem test_encode_makekey : encode (.makekey 24 16) = 0x00101801#32 ∧ encode (.decrypt 32) = 0x00200003#32 := by decide

/-! ### The datapath against the worked examples of 40_datapath.md and 95_test_vectors.md L2-1, L2-4, L2-5 -/

theorem test_mul : mul 0x57 0x83 = 0xC1 ∧ mul 0xFF 0xFF = 0x13 ∧ xtime 0x80 = 0x1B := by decide +kernel
theorem test_tables : sbox 0x53 = 0xED ∧ invSbox 0x63 = 0x00 ∧ rcon 28 = 0xC5 := by decide +kernel
theorem test_shiftRows_8 : (storeState (shiftRows 8 (loadState 8 (patternBytes 32)))).take 8 =
    [0x00, 0x05, 0x0E, 0x13, 0x04, 0x09, 0x12, 0x17] := by decide +kernel
theorem test_mixColumn : (mixColumn (w2b 0xDB135345)).word = 0x8E4DA1BC ∧ imcw 0x01020304 = 0x2B3C2132 := by
  decide +kernel
theorem test_roundTables : te 0 0x00 = 0xC66363A5 ∧ td 0 0x00 = 0x51F4A750 := by decide +kernel

/-! ### The commands -/

/-- 43_control.md R191: STATUS 0x102 becomes 0x002. -/
theorem test_nop : onNext (execNop { idle true false [] with
    status := { busy := true, kvalid := true, stDone := false, stPass := false, err := .invalidKey } })
    (fun s => s.status.word == 0x00000002) = true := by decide +kernel

/-- 41_makekey.md R150: KINFO and the last round key of the FIPS-197 key. -/
theorem test_makekey : onNext (execMakekey 16 16
    { idle false false [] with key := wordsOf 8 [0x2B7E1516, 0x28AED2A6, 0xABF71588, 0x09CF4F3C] })
    (fun s => s.kinfo.word == 0x0004040A && s.status.word == 0x00000002 &&
      roundKey s.dk 4 0 == [0xD014F9A8, 0xC9EE2589, 0xE13F0CC8, 0xB6630CA6]) = true := by decide +kernel

/-- 95_test_vectors.md L2-6: both lengths bad is INVALID_KEY. -/
theorem test_makekey_both_bad : onNext (execMakekey 63 63 (idle true false []))
    (fun s => s.status.word == 0x00000102) = true := by decide +kernel

/-- 42_block.md R170. -/
theorem test_encrypt : onNext (execEncrypt 16 (withExampleKey [0x00112233, 0x44556677, 0x8899AABB, 0xCCDDEEFF]))
    (fun s => s.dout.toList == [0x69C4E0D8, 0x6A7B0430, 0xD8CDB780, 0x70B4C55A, 0, 0, 0, 0]) = true := by decide +kernel

/-- 95_test_vectors.md L2-7: from reset, ENCRYPT 20 is NO_KEY. -/
theorem test_encrypt_no_key : onNext (execEncrypt 20 (idle false false []))
    (fun s => s.status.word == 0x00000300) = true := by decide +kernel

/-- 42_block.md R172. -/
theorem test_decrypt : onNext (execDecrypt 16 (withExampleKey [0x69C4E0D8, 0x6A7B0430, 0xD8CDB780, 0x70B4C55A]))
    (fun s => s.dout.toList == [0x00112233, 0x44556677, 0x8899AABB, 0xCCDDEEFF, 0, 0, 0, 0]) = true := by
  decide +kernel

/-- 95_test_vectors.md L2-10: a cached SELFTEST leaves STATUS 0x0E. -/
theorem test_selftest_cached : onNext (execSelftest (idle true true []))
    (fun s => s.status.word == 0x0000000E) = true := by decide +kernel

/-- 95_test_vectors.md L1-1: the known-answer vector of the source. -/
theorem test_selftest_kat : katCheck = true := by decide +kernel

/-- 95_test_vectors.md L2-10: STATUS 0x0E becomes 0x0C. -/
theorem test_zeroize : onNext (execZeroize { idle true true [] with key := wordsOf 8 [0xFFFFFFFF] })
    (fun s => s.status.word == 0x0000000C && s.key.toList == List.replicate 8 0) = true := by decide +kernel

/-- 95_test_vectors.md L2-11: with KVALID = 1 an ILLEGAL word gives STATUS 0x402. -/
theorem test_illegal : (completeIllegal (idle true false [])).status.word = 0x00000402 := by decide +kernel

/-! ### Register access (95_test_vectors.md L2-12) -/

theorem test_access_misaligned : windowAccess 0x002 .word .read (idle false false []) = .fault (.busError 0x002 .word .read) := by
  rfl
/-- 20_memory.md R63: a burst is a bus error although its total is 32 bits. -/
theorem test_access_burst : windowAccess 0x000 (.burst 4 1) .read (idle false false []) =
    .fault (.busError 0x000 (.burst 4 1) .read) := by rfl
theorem test_access_dout_while_busy : windowAccess 0x0C0 .word .read (pendingWord 2 1 []) =
    .fault (.protocolViolation 0x0C0 .read) := by rfl
theorem test_access_reads : ((windowWord 0x000 (idle false false []) = 0x52494A4E ∧
    windowWord 0x004 (idle false false []) = 0x00000707) ∧ windowWord 0xFFC (idle false false []) = 0) := by decide +kernel
/-- 95_test_vectors.md P5 (b) and (a): the access faults, or the completion comes first. -/
theorem test_step_order : step (pendingWord 0 1 [readAt 0x0C0]) = .fault (.protocolViolation 0x0C0 .read) ∧
    onNext (step (pendingWord 0 0 [readAt 0x0C0])) (fun s => !s.status.busy) = true := by
  refine ⟨?_, by decide +kernel⟩
  have hc : coreTurn (pendingWord 0 1 [readAt 0x0C0]) = false := by rfl
  rw [step_host hc, hostTurn_access (a := { addr := Config.base + 0x0C0, width := .word, kind := .read }) rfl,
    busAccess_window (by decide)]
  rfl

/-! ### The host's fixed names -/

theorem test_decodeTableWord : decodeTableWord 32 0x00000004 = some .selftest := by decide
theorem test_withFetchWord : onNext (step (State.reset.withFetchWord 32 0x00000000)) (fun s => !s.status.busy) = true := by
  decide +kernel

/-! ### Witnesses: for each statement with hypotheses, a state and operands that meet them -/

theorem witness_StepRunsDecodedCommand : ∃ (s : State) (i : Instr),
    s.status.busy = true ∧ (s.hold = 0 ∨ s.inputs = []) ∧ decode s.pending = .ok i :=
  ⟨pendingWord 0x00100002 0 [.wait], .encrypt 16, rfl, .inl rfl, by decide⟩

/-- The other way to the core's turn: a hold, and a host with nothing to do. -/
theorem witness_StepRunsDecodedCommand_noInputs : ∃ (s : State) (i : Instr),
    s.status.busy = true ∧ s.hold ≠ 0 ∧ s.inputs = [] ∧ decode s.pending = .ok i :=
  ⟨pendingWord 0x00000005 3 [], .zeroize, rfl, by decide, rfl, by decide⟩

theorem witness_PlacedWordRunsItsCommand : ∃ (w : Nat) (i : Instr), w < 2 ^ 32 ∧ decodeTableWord 32 w = some i :=
  ⟨0x00101001, .makekey 16 16, by decide, by decide⟩

theorem witness_IllegalWordCompletesWithCode4 : ∃ (s : State) (e : Illegal),
    s.status.busy = true ∧ (s.hold = 0 ∨ s.inputs = []) ∧ decode s.pending = .error e :=
  ⟨pendingWord 0x000000FF 0 [.wait], .reservedOpcode 0xFF, rfl, .inl rfl, by decide⟩

theorem witness_EncodedCommandDecodesToItself : ∃ i : Instr, i.wellFormed = true := ⟨.makekey 63 0, by decide⟩

theorem witness_DecodedCommandEncodesToItsReadBits : ∃ (cmd : Word) (i : Instr), decode cmd = .ok i :=
  ⟨0x003F3F00, .nop, by decide⟩

/-- Too narrow at the last byte of the window while BUSY = 1, a burst of 32 bits, and misaligned while BUSY = 0. -/
theorem witness_NarrowOrMisalignedAccessIsBusError :
    (∃ (s : State) (off : Nat) (width : Width) (kind : AccessKind) (rest : List Input), off < 4096 ∧ width ≠ .single 4 ∧
      s.status.busy = true ∧ coreTurn s = false ∧ s.inputs = windowInput off width kind :: rest) ∧
    (∃ (s : State) (off beats bytes : Nat) (kind : AccessKind) (rest : List Input), off < 4096 ∧ beats * bytes = 4 ∧
      coreTurn s = false ∧ s.inputs = windowInput off (.burst beats bytes) kind :: rest) ∧
    (∃ (s : State) (off : Nat) (width : Width) (kind : AccessKind) (rest : List Input), off < 4096 ∧ off % 4 ≠ 0 ∧
      s.status.busy = false ∧ coreTurn s = false ∧ s.inputs = windowInput off width kind :: rest) :=
  ⟨⟨pendingWord 0 1 [windowInput 4095 (.single 1) .read], 4095, .single 1, .read, [], by decide, by decide, rfl, rfl, rfl⟩,
    ⟨idle false false [windowInput 0x080 (.burst 2 2) (.write 7)], 0x080, 2, 2, .write 7, [], by decide, rfl, rfl, rfl⟩,
    ⟨idle false false [windowInput 2 .word (.write 7)], 2, .word, .write 7, [], by decide, by decide, rfl, rfl, rfl⟩⟩

/-- A write to ID, and a read of KINFO, the first offset after STATUS. -/
theorem witness_AccessWhileBusyIsProtocolViolation :
    (∃ (s : State) (off : Nat) (kind : AccessKind) (rest : List Input), off < 4096 ∧ off % 4 = 0 ∧ kind ≠ .read ∧
      s.status.busy = true ∧ s.hold ≠ 0 ∧ s.inputs = windowInput off .word kind :: rest) ∧
    (∃ (s : State) (off : Nat) (rest : List Input), off < 4096 ∧ off % 4 = 0 ∧
      (off ≠ 0x000 ∧ off ≠ 0x004 ∧ off ≠ 0x00C) ∧
      s.status.busy = true ∧ s.hold ≠ 0 ∧ s.inputs = windowInput off .word .read :: rest) :=
  ⟨⟨pendingWord 0 1 [windowInput 0 .word (.write 1)], 0, .write 1, [], by decide, by decide, by decide, rfl, by decide, rfl⟩,
    ⟨pendingWord 0 1 [windowInput 0x010 .word .read], 0x010, [], by decide, by decide, by decide, rfl, by decide, rfl⟩⟩

theorem witness_IdentityAndStatusReadableWhileBusy : ∃ (s : State) (off : Nat) (v : Word) (rest : List Input),
    off = 0x00C ∧ v = s.status.word ∧ s.status.busy = true ∧ s.hold ≠ 0 ∧ s.inputs = windowInput off .word .read :: rest :=
  ⟨pendingWord 0 1 [windowInput 0x00C .word .read], 0x00C, _, [], rfl, rfl, rfl, by decide, rfl⟩

/-- Every clause of the map has a state that reads there: any offset of the window will do. -/
theorem witness_ReadReturnsMappedRegister (off : Nat) (h : off < 4096) (h4 : off % 4 = 0) :
    ∃ (s : State) (rest : List Input), off < 4096 ∧ off % 4 = 0 ∧ s.status.busy = false ∧
      s.inputs = windowInput off .word .read :: rest :=
  ⟨idle false false [windowInput off .word .read], [], h, h4, rfl, rfl⟩

/-- The first and the last offsets of the buffers and the windows each fall under one clause of the map. -/
theorem witness_map_edges : Reg.atOffset 0x03C = .reserved ∧ Reg.atOffset 0x040 = .key 0 ∧ Reg.atOffset 0x05C = .key 7 ∧
    Reg.atOffset 0x060 = .reserved ∧ Reg.atOffset 0x080 = .din 0 ∧ Reg.atOffset 0x09C = .din 7 ∧
    Reg.atOffset 0x0A0 = .reserved ∧ Reg.atOffset 0x0C0 = .dout 0 ∧ Reg.atOffset 0x0DC = .dout 7 ∧
    Reg.atOffset 0x0E0 = .reserved ∧ Reg.atOffset 0x400 = .ek 0 ∧ Reg.atOffset 0x5DC = .ek 119 ∧
    Reg.atOffset 0x5E0 = .reserved ∧ Reg.atOffset 0x600 = .dk 0 ∧ Reg.atOffset 0x7DC = .dk 119 ∧
    Reg.atOffset 0x7E0 = .reserved ∧ Reg.atOffset 0xFFC = .reserved := by decide

theorem witness_WriteToReadOnlyOrReservedIsIgnored : ∃ (s : State) (off : Nat) (v : Word) (rest : List Input),
    off < 4096 ∧ off % 4 = 0 ∧ off ≠ 0x008 ∧ ¬ (0x040 ≤ off ∧ off ≤ 0x05C) ∧ ¬ (0x080 ≤ off ∧ off ≤ 0x09C) ∧
    s.status.busy = false ∧ s.inputs = windowInput off .word (.write v) :: rest :=
  ⟨idle false false [windowInput 0x060 .word (.write 1)], 0x060, 1, [], by decide, by decide, by decide, by decide, by decide,
    rfl, rfl⟩

theorem witness_WriteToBufferSetsOneWord :
    (∃ (s : State) (i : Fin 8) (v : Word) (rest : List Input), s.status.busy = false ∧
      s.inputs = windowInput (0x040 + 4 * i.val) .word (.write v) :: rest) ∧
    (∃ (s : State) (i : Fin 8) (v : Word) (rest : List Input), s.status.busy = false ∧
      s.inputs = windowInput (0x080 + 4 * i.val) .word (.write v) :: rest) :=
  ⟨⟨idle false false [windowInput (0x040 + 4 * 7) .word (.write 1)], 7, 1, [], rfl, rfl⟩,
    ⟨idle false false [windowInput (0x080 + 4 * 0) .word (.write 1)], 0, 1, [], rfl, rfl⟩⟩

theorem witness_WriteToCmdAcceptsWord : ∃ (s : State) (v : Word) (rest : List Input), s.status.busy = false ∧
    s.inputs = windowInput 0x008 .word (.write v) :: rest :=
  ⟨idle true true [windowInput 0x008 .word (.write 5)], 5, [], rfl, rfl⟩

/-- A read, a write to KEY[0] and a write to CMD that go through. -/
theorem witness_OnlyCmdWritesActBeyondTheirRegister (off : Nat) (kind : AccessKind) (h : off < 4096) (h4 : off % 4 = 0) :
    ∃ (s t : State) (rest : List Input), coreTurn s = false ∧ s.inputs = windowInput off .word kind :: rest ∧
      step s = .next t := by
  refine ⟨idle false false [windowInput off .word kind], performAccess off kind (advance [] (idle false false [windowInput off .word kind])),
    [], rfl, rfl, ?_⟩
  rw [step_host rfl, hostTurn_access (a := { addr := Config.base + off, width := .word, kind := kind }) rfl,
    busAccess_window h]
  simp [windowAccess, h4, idle]

/-- Just below the window (where there is something below it) and just above it. -/
theorem witness_AccessOutsideWindowStops : ∃ (s : State) (a : Access) (rest : List Input),
    (a.addr < Config.base ∨ Config.base + 4096 ≤ a.addr) ∧ coreTurn s = false ∧ s.inputs = .access a :: rest :=
  ⟨idle false false [.access { addr := Config.base + 4096, width := .word, kind := .read }],
    { addr := Config.base + 4096, width := .word, kind := .read }, [], .inr (Nat.le_refl _), rfl, rfl⟩

theorem witness_ResetInputGivesResetState : ∃ (s : State) (rest : List Input), coreTurn s = false ∧ s.status.busy = true ∧
    s.inputs = .reset :: rest :=
  ⟨pendingWord 0x00100002 1 [.reset, .wait], [.wait], rfl, rfl, rfl⟩

theorem witness_NopCompletesWithNoError :
    (∃ cmd : Word, cmd &&& 0xFFC0C0FF#32 = 0#32 ∧ cmd ≠ 0) ∧ (∃ st : Status, st.word = 0x00000102#32) :=
  ⟨⟨0x003F3F00, by decide, by decide⟩,
    ⟨{ busy := false, kvalid := true, stDone := false, stPass := false, err := .invalidKey }, by decide⟩⟩

theorem witness_MakekeyInstallsSchedule : ∃ klen blen : Nat, klen ∈ [16, 24, 32] ∧ blen ∈ [16, 24, 32] :=
  ⟨32, 24, by decide, by decide⟩

theorem witness_MakekeyBadLengthChangesOnlyErr :
    (∃ klen : Nat, klen ∉ [16, 24, 32] ∧ klen = 31) ∧ (∃ klen blen : Nat, klen ∈ [16, 24, 32] ∧ blen ∉ [16, 24, 32]) :=
  ⟨⟨31, by decide, rfl⟩, ⟨16, 0, by decide, by decide⟩⟩

/-- MAKEKEY of supported lengths answers a next state from every state. -/
theorem makekey_next (s : State) {klen blen : Nat} (hk : klen ∈ [16, 24, 32]) (hb : blen ∈ [16, 24, 32]) :
    ∃ t, exec (.makekey klen blen) s = .next t := by
  rcases execMakekey_cases klen blen s with ⟨h, -⟩ | ⟨-, h, -⟩ | ⟨-, -, h⟩
  · exact absurd hk h
  · exact absurd hb h
  · exact ⟨_, h⟩

/-- Two states whose KEYs differ only above the key's length. -/
theorem witness_SessionKeyDependsOnKeyBytesOnly : ∃ (s s' t t' : State) (klen blen : Nat),
    klen ∈ [16, 24, 32] ∧ blen ∈ [16, 24, 32] ∧ s.key ≠ s'.key ∧
    (∀ j < klen, bufferByte s.key j = bufferByte s'.key j) ∧
    exec (.makekey klen blen) s = .next t ∧ exec (.makekey klen blen) s' = .next t' := by
  obtain ⟨t, ht⟩ := makekey_next (idle false false []) (klen := 16) (blen := 32) (by decide) (by decide)
  obtain ⟨t', ht'⟩ := makekey_next { idle false false [] with key := wordsOf 8 [0, 0, 0, 0, 1] } (klen := 16) (blen := 32)
    (by decide) (by decide)
  exact ⟨idle false false [], { idle false false [] with key := wordsOf 8 [0, 0, 0, 0, 1] }, t, t', 16, 32, by decide,
    by decide, by decide +kernel, by decide +kernel, ht, ht'⟩

theorem witness_EncryptFollowsRoundTrace : ∃ s : State, s.status.kvalid = true ∧ s.kinfo.nb.toNat ∈ [4, 6, 8] ∧
    1 ≤ s.kinfo.nr.toNat :=
  ⟨withExampleKey [], by decide +kernel⟩

theorem witness_DecryptFollowsRoundTrace : ∃ s : State, s.status.kvalid = true ∧ s.kinfo.nb.toNat ∈ [4, 6, 8] ∧
    1 ≤ s.kinfo.nr.toNat :=
  ⟨{ withExampleKey [] with kinfo := { nr := 14, nb := 8, nk := 4 } }, by decide +kernel⟩

theorem witness_BlockCommandErrorsInOrder :
    (∃ (s : State) (blen : Nat) (i : Instr), (i = .encrypt blen ∨ i = .decrypt blen) ∧ s.status.kvalid = false) ∧
    (∃ (s : State) (blen : Nat) (i : Instr), (i = .encrypt blen ∨ i = .decrypt blen) ∧ s.status.kvalid = true ∧
      blen ≠ 4 * s.kinfo.nb.toNat) :=
  ⟨⟨State.reset, 20, .encrypt 20, .inl rfl, rfl⟩, ⟨withExampleKey [], 32, .decrypt 32, .inr rfl, by decide +kernel⟩⟩

/-- Two states with one session key whose DINs differ only above the block. -/
theorem witness_BlockCommandReadsBlockAndKeyOnly : ∃ (s s' t t' : State) (blen : Nat) (i : Instr),
    (i = .encrypt blen ∨ i = .decrypt blen) ∧ s.status.kvalid = s'.status.kvalid ∧ s.sessionKey = s'.sessionKey ∧
    s.din ≠ s'.din ∧ (∀ j < blen, bufferByte s.din j = bufferByte s'.din j) ∧
    exec i s = .next t ∧ exec i s' = .next t' ∧ t.status.err = .none := by
  have hb : ∀ ws, (16 : Nat) = 4 * (withExampleKey ws).kinfo.nb.toNat := fun _ => rfl
  have hn : ∀ ws, ∃ t, exec (.encrypt 16) (withExampleKey ws) = .next t ∧ t.status.err = .none := by
    intro ws
    rcases blockCommand_cases (fun bs => cipher bs (withExampleKey ws).ek (withExampleKey ws).kinfo.nr.toNat
      (withExampleKey ws).kinfo.nb.toNat) 16 (withExampleKey ws) with ⟨h, -⟩ | ⟨-, h, -⟩ | ⟨-, -, h⟩
    · exact absurd h (by simp [withExampleKey])
    · exact absurd (hb ws) h
    · exact ⟨_, h, rfl⟩
  obtain ⟨t, ht, he⟩ := hn []
  obtain ⟨t', ht', -⟩ := hn [0, 0, 0, 0, 0xFFFFFFFF]
  exact ⟨withExampleKey [], withExampleKey [0, 0, 0, 0, 0xFFFFFFFF], t, t', 16, .encrypt 16, .inl rfl, rfl, rfl, by decide +kernel, by decide +kernel, ht, ht', he⟩

theorem witness_DecryptInvertsEncrypt : ∃ (s t : State) (klen blen : Nat), klen ∈ [16, 24, 32] ∧ blen ∈ [16, 24, 32] ∧
    exec (.makekey klen blen) s = .next t := by
  obtain ⟨t, ht⟩ := makekey_next State.reset (klen := 32) (blen := 24) (by decide) (by decide)
  exact ⟨_, t, 32, 24, by decide, by decide, ht⟩

theorem witness_BlockSizeBoundToSessionKey : ∃ (s t : State) (klen b1 b2 : Nat) (i : Instr), klen ∈ [16, 24, 32] ∧
    b1 ∈ [16, 24, 32] ∧ exec (.makekey klen b1) s = .next t ∧ (i = .encrypt b2 ∨ i = .decrypt b2) ∧ b2 ≠ b1 := by
  obtain ⟨t, ht⟩ := makekey_next State.reset (klen := 16) (blen := 16) (by decide) (by decide)
  exact ⟨_, t, 16, 16, 32, .decrypt 32, by decide, by decide, ht, .inr rfl, by decide⟩

theorem witness_SelftestRunsOnceAndCaches :
    (∃ s : State, s.status.stDone = false) ∧ (∃ s : State, s.status.stDone = true) :=
  ⟨⟨State.reset, rfl⟩, ⟨idle true true [], rfl⟩⟩

theorem witness_ZeroizeClearsMaterial : ∃ u : State, u.status.kvalid = false := ⟨State.reset, rfl⟩

theorem witness_CommandErrorsArePrecise : ∃ s t : State, coreTurn s = true ∧ step s = .next t ∧ t.status.err ≠ .none :=
  ⟨pendingWord 0x00000006 0 [], completeIllegal (pendingWord 0x00000006 0 []), rfl, by
    rw [step_core rfl, coreStep_error (e := .reservedOpcode 6) (by decide)], by decide⟩

/-- The clauses about an illegal word, an accept and a read; the clause about commands has none but the command's answer. -/
theorem witness_FlagsFollowCommandTable :
    (∃ s t : State, exec .nop s = .next t) ∧
    (∃ (s t : State) (e : Illegal), coreTurn s = true ∧ decode s.pending = .error e ∧ step s = .next t) ∧
    (∃ (s t : State) (v : Word) (rest : List Input), s.status.busy = false ∧
      s.inputs = windowInput 0x008 .word (.write v) :: rest ∧ step s = .next t) ∧
    (∃ (s t : State) (off : Nat) (rest : List Input), off < 4096 ∧ coreTurn s = false ∧
      s.inputs = windowInput off .word .read :: rest ∧ step s = .next t) := by
  refine ⟨⟨State.reset, _, rfl⟩,
    ⟨pendingWord 0x00004001 0 [], _, .reservedBits, rfl, by decide,
      by rw [step_core rfl, coreStep_error (e := .reservedBits) (by decide)]⟩, ?_, ?_⟩
  · have h : step (idle false false [windowInput 0x008 .word (.write 3)]) =
        .next (accept 3 (advance [] (idle false false [windowInput 0x008 .word (.write 3)]))) := by
      rw [step_host rfl, hostTurn_access (a := { addr := Config.base + 0x008, width := .word, kind := .write 3 }) rfl,
        busAccess_window (by decide)]
      rfl
    exact ⟨_, _, 3, [], rfl, rfl, h⟩
  · have h : step (idle false false [windowInput 0x600 .word .read]) =
        .next (performAccess 0x600 .read (advance [] (idle false false [windowInput 0x600 .word .read]))) := by
      rw [step_host rfl, hostTurn_access (a := { addr := Config.base + 0x600, width := .word, kind := .read }) rfl,
        busAccess_window (by decide)]
      rfl
    exact ⟨_, _, 0x600, [], by decide, rfl, rfl, h⟩

theorem witness_OnlyResetClearsSelfTestCache : ∃ s t : State, step s = .next t ∧ s.status.stDone = true :=
  ⟨idle true true [], idle true true [], by rw [step_host rfl, hostTurn_nil rfl], rfl⟩

/-- A MAKEKEY that succeeds, a ZEROIZE, a reset that abandons a command, and a step of none of these kinds. -/
theorem witness_SessionKeyReplacedOrClearedWhole :
    (∃ (s t : State) (klen blen : Nat), step s = .next t ∧ coreTurn s = true ∧ decode s.pending = .ok (.makekey klen blen) ∧
      t.status.err = .none) ∧
    (∃ s t : State, step s = .next t ∧ coreTurn s = true ∧ decode s.pending = .ok .zeroize) ∧
    (∃ (s t : State) (rest : List Input), step s = .next t ∧ coreTurn s = false ∧ s.inputs = .reset :: rest) ∧
    (∃ s t : State, step s = .next t ∧ coreTurn s = true ∧ decode s.pending = .ok .nop) := by
  refine ⟨?_, ⟨pendingWord 5 0 [], _, by rw [step_core rfl, coreStep_ok (i := .zeroize) (by decide)]; rfl, rfl, by decide⟩,
    ⟨pendingWord 5 1 [.reset], _, [], by rw [step_host rfl, hostTurn_reset rfl], rfl, rfl⟩,
    ⟨pendingWord 0 0 [], _, by rw [step_core rfl, coreStep_ok (i := .nop) (by decide)]; rfl, rfl, by decide⟩⟩
  rcases execMakekey_cases 32 24 (pendingWord 0x00182001 0 []) with ⟨h, -⟩ | ⟨-, h, -⟩ | ⟨-, -, h⟩
  · exact absurd (by decide) h
  · exact absurd (by decide) h
  · exact ⟨pendingWord 0x00182001 0 [], _, 32, 24,
      by rw [step_core rfl, coreStep_ok (i := .makekey 32 24) (by decide)]; exact h, rfl, by decide, rfl⟩

/-- A step that sets BUSY, and one that clears it. -/
theorem witness_BusyChangesOnlyAtAcceptCompletionReset :
    (∃ s t : State, step s = .next t ∧ s.status.busy = false ∧ t.status.busy = true) ∧
    (∃ s t : State, step s = .next t ∧ s.status.busy = true ∧ t.status.busy = false) := by
  obtain ⟨-, -, ⟨s, t, v, rest, hb, hi, hs⟩, -⟩ := witness_FlagsFollowCommandTable
  refine ⟨⟨s, t, hs, hb, ?_⟩, ⟨pendingWord 0 0 [], _, by rw [step_core rfl, coreStep_ok (i := .nop) (by decide)]; rfl,
    rfl, rfl⟩⟩
  rw [step_host (coreTurn_of_idle hb), hostTurn_access (a := { addr := Config.base + 0x008, width := .word, kind := .write v }) hi,
    busAccess_window (by decide)] at hs
  have : windowAccess 0x008 .word (.write v) (advance rest s) = .next (accept v (advance rest s)) := by
    simp [windowAccess, hb, performAccess, Reg.atOffset, writeReg]
  rw [this] at hs
  rw [← Host.Outcome.next.inj hs]
  rfl

theorem witness_PendingUnreadWhileIdle :
    (∃ s : State, s.status.busy = false ∧ s.inputs = []) ∧
    (∃ s t : State, s.status.busy = false ∧ step s = .next t) ∧
    (∃ (s : State) (f : Fault), s.status.busy = false ∧ step s = .fault f) := by
  refine ⟨⟨State.reset, rfl, rfl⟩, ⟨State.reset, State.reset, rfl, by rw [step_host rfl, hostTurn_nil rfl]⟩,
    ⟨idle false false [windowInput 2 .word .read], .busError 2 .word .read, rfl, ?_⟩⟩
  rw [step_host rfl, hostTurn_access (a := { addr := Config.base + 2, width := .word, kind := .read }) rfl,
    busAccess_window (by decide)]
  rfl

theorem witness_PendingCommandEnds : ∃ s : State, s.status.busy = true ∧ s.hold = 2 ∧ s.inputs ≠ [] :=
  ⟨pendingWord 0 2 [.wait], rfl, rfl, by decide⟩

/-- A WAIT for a pending command, and one with BUSY = 0 already. -/
theorem witness_WaitEndsWithBusyClear :
    (∃ (s : State) (rest : List Input), s.status.busy = true ∧ s.inputs = .wait :: rest) ∧
    (∃ (s : State) (rest : List Input), s.status.busy = false ∧ s.inputs = .wait :: rest) :=
  ⟨⟨pendingWord 0 2 [.wait], [], rfl, rfl⟩, ⟨idle false false [.wait, .wait], [.wait], rfl, rfl⟩⟩

/-- A read of DOUT, a write to CMD, to the last word of KEY and of DIN, and to ID. -/
theorem witness_EarlyAccessMayFault :
    ∀ p ∈ [(0x0C0, AccessKind.read), (0x008, .write 3), (0x05C, .write 7), (0x09C, .write 7), (0x000, .write 7)],
      ∃ (s : State) (rest : List Input), p.1 < 4096 ∧ p.1 % 4 = 0 ∧
        (p.2 ≠ .read ∨ (p.1 ≠ 0x000 ∧ p.1 ≠ 0x004 ∧ p.1 ≠ 0x00C)) ∧ s.status.busy = true ∧
        s.inputs = windowInput p.1 .word p.2 :: rest := by
  intro p hp
  refine ⟨pendingWord 0x00100002 2 [windowInput p.1 .word p.2], [], ?_, ?_, ?_, rfl, rfl⟩ <;> revert p <;> decide

theorem witness_CommandThenWaitPerformsCommand : ∃ (s : State) (i : Instr) (rest : List Input), i.wellFormed = true ∧
    s.status.busy = false ∧ s.inputs = windowInput 0x008 .word (.write (encode i)) :: .wait :: rest :=
  ⟨idle false false [windowInput 0x008 .word (.write (encode (.makekey 16 16))), .wait], .makekey 16 16, [], by decide, rfl, rfl⟩

theorem witness_LdkeyFillsKeyBuffer : ∃ (s : State) (bytes : List Byte) (ins rest : List Input),
    bytes.length ∈ [16, 24, 32] ∧ s.status.busy = false ∧ (HostStmt.ldkey bytes).inputs = some ins ∧
    s.inputs = ins ++ rest :=
  ⟨idle false false (((HostStmt.ldkey (patternBytes 24)).inputs).getD [] ++ [.wait]), patternBytes 24, _, [.wait],
    by decide, rfl, rfl, rfl⟩

theorem witness_CmdStatementLeavesCommandPending : ∃ (s : State) (i : Instr) (ins rest : List Input),
    (HostStmt.cmd i).inputs = some ins ∧ s.inputs = ins ++ rest ∧ s.status.busy = false :=
  ⟨idle false false [writeAt cmdOffset (encode (.encrypt 63))], .encrypt 63, _, [], rfl, rfl, rfl⟩

/-- The invariant holds of a state with no key and a command pending, and that state steps. -/
theorem witness_StepKeepsInvariant : ∃ s t : State, Inv s ∧ step s = .next t ∧ s.status.busy = true :=
  ⟨pendingWord 0 0 [], _, ⟨rfl, rfl, fun _ => rfl, fun _ => rfl⟩,
    by rw [step_core rfl, coreStep_ok (i := .nop) (by decide)]; rfl, rfl⟩

/-- The invariant holds of a state that holds a key. -/
theorem witness_Inv_with_key : Inv (withExampleKey [0x00112233]) :=
  ⟨⟨patternBytes 16, 16, 16, by decide, by decide, rfl, rfl⟩, rfl, (fun h => by cases h), (fun h => by cases h)⟩

theorem witness_SboxIsAffineOfInverse : ∃ x b : Byte, mul x b = 1 ∧ x ≠ 1 := ⟨0x53, 0xCA, by decide +kernel⟩

theorem witness_ShiftRowsInvertible : ∃ (nb : Nat) (s : CipherState), nb ∈ [4, 6, 8] ∧ s.length = nb :=
  ⟨6, List.replicate 6 ⟨0, 0, 0, 0⟩, by decide, rfl⟩

theorem witness_StateHoldsBlockByColumns : ∃ (nb : Nat) (bs : List Byte), bs.length = 4 * nb :=
  ⟨8, patternBytes 32, by decide⟩

theorem witness_RoundTablesComputeRound : ∃ (nb : Nat) (s : CipherState) (k : List Word) (c : Nat), nb ∈ [4, 6, 8] ∧
    s.length = nb ∧ k.length = nb ∧ c < nb :=
  ⟨8, List.replicate 8 ⟨0, 0, 0, 0⟩, List.replicate 8 0, 7, by decide, rfl, rfl, by decide⟩

end Sys2Proof.Tests
end

section
/-! PROOF. The facts the statements about 10_state.md rest on: the words of STATUS and KINFO, the session-key store under
each operation, what a completed command and a whole step can do, and the self-test's result. -/

namespace Sys2Proof.Machine

/-! ### The words of STATUS and KINFO (10_state.md R30, R35)

The concatenations at the width of their sum, where the library's lemmas about `++` apply. -/

theorem KInfo.extract_word (k : KInfo) (start len : Nat) : k.word.extractLsb' start len =
    BitVec.extractLsb' (n := 12 + 4 + 4 + 4 + 3 + 5) start len (0#12 ++ k.nk ++ 0#4 ++ k.nb ++ 0#3 ++ k.nr) := rfl

theorem Status.extract_word (st : Status) (start len : Nat) : st.word.extractLsb' start len =
    BitVec.extractLsb' (n := 20 + 4 + 4 + 1 + 1 + 1 + 1) start len (0#20 ++ st.err.code ++ 0#4 ++ BitVec.ofBool st.stPass
      ++ BitVec.ofBool st.stDone ++ BitVec.ofBool st.kvalid ++ BitVec.ofBool st.busy) := rfl

theorem Status.getLsbD_word (st : Status) (i : Nat) : st.word.getLsbD i =
    BitVec.getLsbD (w := 20 + 4 + 4 + 1 + 1 + 1 + 1) (0#20 ++ st.err.code ++ 0#4 ++ BitVec.ofBool st.stPass
      ++ BitVec.ofBool st.stDone ++ BitVec.ofBool st.kvalid ++ BitVec.ofBool st.busy) i := rfl

/-- Bits 0 to 3 of STATUS are its four flags. -/
theorem Status.word_flags (st : Status) : st.word.getLsbD 0 = st.busy ∧ st.word.getLsbD 1 = st.kvalid ∧
    st.word.getLsbD 2 = st.stDone ∧ st.word.getLsbD 3 = st.stPass := by
  simp [Status.getLsbD_word, -Nat.reduceAdd, -BitVec.getLsbD_eq_getElem, BitVec.getLsbD_append]

/-- Bits 11:8 of STATUS are the error code, and its reserved bits 7:4 and 31:12 are 0. -/
theorem Status.word_err_reserved (st : Status) : st.word.extractLsb' 8 4 = st.err.code ∧
    st.word.extractLsb' 4 4 = 0 ∧ st.word.extractLsb' 12 20 = 0 := by
  simp [Status.extract_word, -Nat.reduceAdd, BitVec.extractLsb'_append_eq_ite]

/-- The fields of KINFO, and 0 in the reserved bits between and above them. -/
theorem KInfo.word_fields (k : KInfo) : k.word.extractLsb' 0 5 = k.nr ∧ k.word.extractLsb' 8 4 = k.nb ∧
    k.word.extractLsb' 16 4 = k.nk ∧ k.word.extractLsb' 5 3 = 0 ∧ k.word.extractLsb' 12 4 = 0 ∧
    k.word.extractLsb' 20 12 = 0 := by
  simp [KInfo.extract_word, -Nat.reduceAdd, BitVec.extractLsb'_append_eq_ite]

/-! ### Accesses of the window -/

/-- No write is admitted while BUSY = 1 (60_exceptions.md R215). -/
@[simp] theorem allowedWhileBusy_write (r : Reg) (v : Word) : allowedWhileBusy r (.write v) = false := by
  cases r <;> rfl

/-- What an access leaves alone when it accepts no command: STATUS, the session key and, while a command is pending, the
host's wait. -/
structure Quiet (s t : State) : Prop where
  status : t.status = s.status
  sessionKey : t.sessionKey = s.sessionKey
  awaiting : s.status.busy = true → t.awaiting = s.awaiting

/-- A read leaves STATUS and the session key alone, and a read of STATUS ends the host's wait only if BUSY = 0
(20_memory.md R69; 70_reset_and_hazards.md R245). -/
theorem performAccess_read_quiet (off : Nat) (s : State) : Quiet s (performAccess off .read s) where
  status := rfl
  sessionKey := rfl
  awaiting hb := by
    by_cases ho : off = statusOffset
    · subst ho
      simp [performAccess, readReg, Reg.atOffset, statusOffset, s.status.word_flags.1, hb]
    · simp [performAccess, ho]

/-- An admitted access accepts a command or leaves STATUS and the session key alone (20_memory.md R69). -/
theorem performAccess_cases (off : Nat) (kind : AccessKind) (s : State) :
    (∃ v, kind = .write v ∧ off = cmdOffset ∧ performAccess off kind s = accept v s) ∨
    Quiet s (performAccess off kind s) := by
  cases kind with
  | read => exact .inr (performAccess_read_quiet off s)
  | write v =>
    rcases writeReg_cases (Reg.atOffset off) v s with ⟨i, -, e⟩ | ⟨i, -, e⟩ | ⟨hr, e⟩ | ⟨-, -, -, e⟩
    · exact .inr (by rw [performAccess, e]; exact ⟨rfl, rfl, fun _ => rfl⟩)
    · exact .inr (by rw [performAccess, e]; exact ⟨rfl, rfl, fun _ => rfl⟩)
    · exact .inl ⟨v, rfl, atOffset_eq_cmd.1 hr, e⟩
    · exact .inr (by rw [performAccess, e]; exact ⟨rfl, rfl, fun _ => rfl⟩)

/-- A poll of STATUS ends the host's wait only if BUSY = 0 (30_encoding.md R99). -/
theorem poll_quiet (ins : List Input) (s : State) : Quiet s (noteRead statusOffset s.status.word (advance ins s)) where
  status := rfl
  sessionKey := rfl
  awaiting hb := by simp [s.status.word_flags.1, hb]

/-! ### Commands -/

/-- What MAKEKEY answers (41_makekey.md R150, R151). -/
theorem execMakekey_next {klen blen : Nat} {s t : State} (h : execMakekey klen blen s = .next t) :
    t = complete .invalidKey s ∨ t = complete .invalidArgument s ∨
    (SupportedSize klen ∧ SupportedSize blen ∧
      t = complete .none (installKey (makeSessionKey (bufferBytes s.key klen) (klen / 4) (blen / 4)) s)) := by
  rcases execMakekey_cases klen blen s with ⟨-, e⟩ | ⟨-, -, e⟩ | ⟨hk, hb, e⟩ <;>
    obtain rfl := Host.Outcome.next.inj (e.symm.trans h)
  · exact .inl rfl
  · exact .inr (.inl rfl)
  · exact .inr (.inr ⟨hk, hb, rfl⟩)

/-- What ENCRYPT and DECRYPT answer (42_block.md R170, R172). -/
theorem blockCommand_next {f : List Byte → List Byte} {blen : Nat} {s t : State} (h : blockCommand f blen s = .next t) :
    t = complete .noKey s ∨ t = complete .invalidArgument s ∨ ∃ out, t = complete .none (writeOut out s) := by
  rcases blockCommand_cases f blen s with ⟨-, e⟩ | ⟨-, -, e⟩ | ⟨-, -, e⟩ <;>
    obtain rfl := Host.Outcome.next.inj (e.symm.trans h)
  · exact .inl rfl
  · exact .inr (.inl rfl)
  · exact .inr (.inr ⟨_, rfl⟩)

/-- The same of the two commands themselves. -/
theorem exec_block_next {blen : Nat} {i : Instr} {s t : State} (hi : i = .encrypt blen ∨ i = .decrypt blen)
    (h : exec i s = .next t) :
    t = complete .noKey s ∨ t = complete .invalidArgument s ∨ ∃ out, t = complete .none (writeOut out s) := by
  rcases hi with rfl | rfl
  · rw [exec, execEncrypt] at h
    exact blockCommand_next h
  · rw [exec, execDecrypt] at h
    exact blockCommand_next h

/-- The error codes of ENCRYPT and DECRYPT; they write no other flag (10_state.md R42). -/
theorem exec_block_status {blen : Nat} {i : Instr} {s t : State} (hi : i = .encrypt blen ∨ i = .decrypt blen)
    (h : exec i s = .next t) :
    t.status = s.status.complete .none ∨ t.status = s.status.complete .noKey ∨
      t.status = s.status.complete .invalidArgument := by
  rcases exec_block_next hi h with rfl | rfl | ⟨_, rfl⟩
  · exact .inr (.inl rfl)
  · exact .inr (.inr rfl)
  · exact .inl rfl

/-- What SELFTEST answers (43_control.md R192). -/
theorem execSelftest_next {s t : State} (h : execSelftest s = .next t) :
    (s.status.stDone = true ∧ t = complete .none s) ∨
    (s.status.stDone = false ∧ t = complete .none (cacheSelfTest selfTestResult s)) := by
  rcases execSelftest_cases s with ⟨hd, e⟩ | ⟨hd, e⟩ <;> obtain rfl := Host.Outcome.next.inj (e.symm.trans h)
  · exact .inl ⟨hd, rfl⟩
  · exact .inr ⟨hd, rfl⟩

/-- What a completion does besides its error code: nothing, or the one thing its command installs, writes, caches or
clears (10_state.md R42). -/
theorem exec_next_cases {i : Instr} {s t : State} (h : exec i s = .next t) :
    (∃ e, t = complete e s) ∨
    (∃ klen blen, i = .makekey klen blen ∧ SupportedSize klen ∧ SupportedSize blen ∧
      t = complete .none (installKey (makeSessionKey (bufferBytes s.key klen) (klen / 4) (blen / 4)) s)) ∨
    (∃ out, t = complete .none (writeOut out s)) ∨
    t = complete .none (cacheSelfTest selfTestResult s) ∨
    (i = .zeroize ∧ t = complete .none (clearMaterial s)) := by
  cases i with
  | nop => exact .inl ⟨.none, (Host.Outcome.next.inj h).symm⟩
  | makekey klen blen =>
    rcases execMakekey_next h with e | e | ⟨hk, hb, e⟩
    · exact .inl ⟨_, e⟩
    · exact .inl ⟨_, e⟩
    · exact .inr (.inl ⟨klen, blen, rfl, hk, hb, e⟩)
  | encrypt blen =>
    rcases exec_block_next (.inl rfl) h with e | e | e
    · exact .inl ⟨_, e⟩
    · exact .inl ⟨_, e⟩
    · exact .inr (.inr (.inl e))
  | decrypt blen =>
    rcases exec_block_next (.inr rfl) h with e | e | e
    · exact .inl ⟨_, e⟩
    · exact .inl ⟨_, e⟩
    · exact .inr (.inr (.inl e))
  | selftest =>
    rcases execSelftest_next h with ⟨-, e⟩ | ⟨-, e⟩
    · exact .inl ⟨_, e⟩
    · exact .inr (.inr (.inr (.inl e)))
  | zeroize => exact .inr (.inr (.inr (.inr ⟨rfl, (Host.Outcome.next.inj h).symm⟩)))

/-- Every completion clears BUSY (43_control.md R190). -/
theorem exec_clears_busy {i : Instr} {s t : State} (h : exec i s = .next t) : t.status.busy = false := by
  rcases exec_next_cases h with ⟨_, rfl⟩ | ⟨_, _, -, -, -, rfl⟩ | ⟨_, rfl⟩ | rfl | ⟨-, rfl⟩ <;> rfl

/-- A command other than a successful MAKEKEY and ZEROIZE leaves the session key alone (10_state.md R38). -/
theorem exec_keeps_sessionKey {i : Instr} {s t : State} (h : exec i s = .next t)
    (hm : ¬ ((∃ klen blen, i = .makekey klen blen) ∧ t.status.err = .none)) (hz : i ≠ .zeroize) :
    t.sessionKey = s.sessionKey := by
  rcases exec_next_cases h with ⟨_, rfl⟩ | ⟨klen, blen, hi, -, -, rfl⟩ | ⟨_, rfl⟩ | rfl | ⟨hi, -⟩
  · rfl
  · exact absurd ⟨⟨klen, blen, hi⟩, rfl⟩ hm
  · rfl
  · rfl
  · exact absurd hi hz

/-! ### Steps -/

/-- What a step does to STATUS, the session key and the host's wait: a completion, a reset or an accept, or nothing
(43_control.md R190; 70_reset_and_hazards.md R240). -/
theorem step_next_effect {s t : State} (h : step s = .next t) :
    (coreTurn s = true ∧ ∃ i, decode s.pending = .ok i ∧ exec i s = .next t) ∨
    (coreTurn s = true ∧ (∃ e, decode s.pending = .error e) ∧ t = completeIllegal s) ∨
    (coreTurn s = false ∧ ∃ rest, s.inputs = .reset :: rest ∧ t = resetCore (advance rest s)) ∨
    (coreTurn s = false ∧ s.status.busy = false ∧ ∃ a rest v, s.inputs = .access a :: rest ∧
      windowOffset a.addr = some cmdOffset ∧ a.width = .word ∧ a.kind = .write v ∧ t = accept v (advance rest s)) ∨
    (coreTurn s = false ∧ (∀ rest, s.inputs ≠ .reset :: rest) ∧ Quiet s t) := by
  rcases step_next_cases h with hx | hx | ⟨hc, hi, rfl⟩ | ⟨hc, a, rest, off, hi, ho, hw, -, hb, rfl⟩ |
    ⟨hc, rest, hi, rfl⟩ | hx
  · exact .inl hx
  · exact .inr (.inl hx)
  · exact .inr (.inr (.inr (.inr ⟨hc, by simp [hi], rfl, rfl, fun _ => rfl⟩)))
  · rcases performAccess_cases off a.kind (advance rest s) with ⟨v, hk, rfl, e⟩ | ⟨hst, hsk, haw⟩
    · have hidle : s.status.busy = false := by simpa [hk] using hb
      exact .inr (.inr (.inr (.inl ⟨hc, hidle, a, rest, v, hi, ho, hw, hk, e⟩)))
    · exact .inr (.inr (.inr (.inr ⟨hc, by simp [hi], hst, hsk, haw⟩)))
  · exact .inr (.inr (.inr (.inr ⟨hc, by simp [hi], poll_quiet _ s⟩)))
  · exact .inr (.inr (.inl hx))

/-- The step of the completion of a decoded command (43_control.md R190). -/
theorem step_completion {s : State} {i : Instr} (hc : coreTurn s = true) (hd : decode s.pending = .ok i) :
    step s = exec i s := (step_core hc).trans (coreStep_ok hd)

/-- The step of a 32-bit write to CMD by an idle machine's host (43_control.md R190). -/
theorem step_write_cmd {s : State} {v : Word} {rest : List Input} (hb : s.status.busy = false)
    (hi : s.inputs = windowInput cmdOffset .word (.write v) :: rest) : step s = .next (accept v (advance rest s)) := by
  have hw : windowAccess cmdOffset .word (.write v) (advance rest s) = .next (accept v (advance rest s)) := by
    simp [windowAccess, cmdOffset, hb, performAccess, Reg.atOffset, writeReg]
  rw [step_host (coreTurn_of_idle hb), hostTurn_access hi, busAccess_window (by decide), hw]

/-! ### PENDING while the machine is idle (10_state.md R39) -/

/-- A state with another word in PENDING. -/
def setPending (v : Word) (s : State) : State := { s with pending := v }

@[simp] theorem setPending_status (v : Word) (s : State) : (setPending v s).status = s.status := rfl
@[simp] theorem setPending_inputs (v : Word) (s : State) : (setPending v s).inputs = s.inputs := rfl
@[simp] theorem advance_setPending (rest : List Input) (v : Word) (s : State) :
    advance rest (setPending v s) = setPending v (advance rest s) := rfl

/-- Two outcomes agree but for the value of PENDING in the next state. -/
inductive AgreeUpToPending : Host.Outcome State Fault Refusal → Host.Outcome State Fault Refusal → Prop
  | next (t : State) (w : Word) : AgreeUpToPending (.next t) (.next (setPending w t))
  | fault (f : Fault) : AgreeUpToPending (.fault f) (.fault f)

/-- No read of the window returns PENDING (20_memory.md R61). -/
@[simp] theorem readReg_setPending (r : Reg) (v : Word) (s : State) : readReg r (setPending v s) = readReg r s := by
  cases r <;> rfl

/-- An admitted access does not read PENDING; the free value of an accept is taken after PENDING is overwritten. -/
theorem performAccess_setPending (off : Nat) (kind : AccessKind) (v : Word) (s : State) :
    ∃ w, performAccess off kind (setPending v s) = setPending w (performAccess off kind s) := by
  cases kind with
  | read => exact ⟨v, by simp only [performAccess, readReg_setPending]; rfl⟩
  | write x =>
    simp only [performAccess]
    cases Reg.atOffset off with
    | cmd => exact ⟨x, rfl⟩
    | _ => exact ⟨v, rfl⟩

/-- No access of the window reads PENDING. -/
theorem windowAccess_setPending (off : Nat) (width : Width) (kind : AccessKind) (v : Word) (s : State) :
    AgreeUpToPending (windowAccess off width kind s) (windowAccess off width kind (setPending v s)) := by
  obtain ⟨w, hw⟩ := performAccess_setPending off kind v s
  simp only [windowAccess, hw, setPending_status]
  split
  · exact .fault _
  · split
    · exact .fault _
    · exact .next _ w

/-- The host's turn does not read PENDING. -/
theorem hostTurn_setPending (s : State) (v : Word) : AgreeUpToPending (hostTurn s) (hostTurn (setPending v s)) := by
  have hins := setPending_inputs v s
  cases hi : s.inputs with
  | nil =>
    rw [hostTurn_nil hi, hostTurn_nil (hins.trans hi)]
    exact .next s v
  | cons x rest =>
    cases x with
    | wait =>
      rw [hostTurn_wait hi, hostTurn_wait (hins.trans hi)]
      exact .next _ v
    | reset =>
      rw [hostTurn_reset hi, hostTurn_reset (hins.trans hi)]
      exact .next _ _
    | access a =>
      rw [hostTurn_access hi, hostTurn_access (hins.trans hi), advance_setPending]
      cases ho : windowOffset a.addr with
      | none =>
        rw [busAccess_outside ho, busAccess_outside ho]
        exact .fault _
      | some off =>
        simp only [busAccess, ho]
        exact windowAccess_setPending off a.width a.kind v (advance rest s)

/-- An idle machine's step does not read PENDING: it is the host's turn (10_state.md R20, R39). -/
theorem step_setPending_of_idle {s : State} (hb : s.status.busy = false) (v : Word) :
    AgreeUpToPending (step s) (step (setPending v s)) := by
  rw [step_host (coreTurn_of_idle hb), step_host (coreTurn_of_idle (s := setPending v s) hb)]
  exact hostTurn_setPending s v

/-- What an outcome that agrees with a next state is. -/
theorem AgreeUpToPending.of_next {t : State} {o : Host.Outcome State Fault Refusal} (h : AgreeUpToPending (.next t) o) :
    ∃ u, o = .next u ∧ setPending t.pending u = t := by
  cases h with
  | next _ w => exact ⟨_, rfl, rfl⟩

/-- What an outcome that agrees with a fault is. -/
theorem AgreeUpToPending.of_fault {f : Fault} {o : Host.Outcome State Fault Refusal} (h : AgreeUpToPending (.fault f) o) :
    o = .fault f := by
  cases h with
  | fault _ => rfl

/-! ### The invariant -/

/-! The symmetry checks of 43_control.md R193, evaluated pair by pair: one evaluation of all nine takes the kernel more
memory than the check allows. -/

theorem symmetryCheck_16_16 : symmetryCheck 16 16 = true := by decide +kernel
theorem symmetryCheck_16_24 : symmetryCheck 16 24 = true := by decide +kernel
theorem symmetryCheck_16_32 : symmetryCheck 16 32 = true := by decide +kernel
theorem symmetryCheck_24_16 : symmetryCheck 24 16 = true := by decide +kernel
theorem symmetryCheck_24_24 : symmetryCheck 24 24 = true := by decide +kernel
theorem symmetryCheck_24_32 : symmetryCheck 24 32 = true := by decide +kernel
theorem symmetryCheck_32_16 : symmetryCheck 32 16 = true := by decide +kernel
theorem symmetryCheck_32_24 : symmetryCheck 32 24 = true := by decide +kernel
theorem symmetryCheck_32_32 : symmetryCheck 32 32 = true := by decide +kernel

/-- Every symmetry check of 43_control.md R193 holds. -/
theorem symmetryCheck_true {klen blen : Nat} (hk : SupportedSize klen) (hb : SupportedSize blen) :
    symmetryCheck klen blen = true := by
  simp only [SupportedSize, supportedSizes, List.mem_cons, List.not_mem_nil, or_false] at hk hb
  rcases hk with rfl | rfl | rfl
  · rcases hb with rfl | rfl | rfl
    · exact symmetryCheck_16_16
    · exact symmetryCheck_16_24
    · exact symmetryCheck_16_32
  · rcases hb with rfl | rfl | rfl
    · exact symmetryCheck_24_16
    · exact symmetryCheck_24_24
    · exact symmetryCheck_24_32
  · rcases hb with rfl | rfl | rfl
    · exact symmetryCheck_32_16
    · exact symmetryCheck_32_24
    · exact symmetryCheck_32_32

/-- The known-answer check of 43_control.md R193, evaluated. -/
theorem katCheck_true : katCheck = true := by decide +kernel

/-- The self-test of a core that follows the rules passes (43_control.md R195). -/
theorem selfTestResult_true : selfTestResult = true := by
  simp only [selfTestResult, Bool.and_eq_true, List.all_eq_true]
  exact ⟨fun _ hk _ hb => symmetryCheck_true hk hb, katCheck_true⟩

/-- The key store's agreement with KVALID is about KVALID and the store alone. -/
theorem KeyStoreOk.congr {s t : State} (h : KeyStoreOk s) (hv : t.status.kvalid = s.status.kvalid)
    (hk : t.sessionKey = s.sessionKey) : KeyStoreOk t := by
  unfold KeyStoreOk at h ⊢
  rwa [hv, hk]

/-- With no key held the store is to be empty (10_state.md R33). -/
theorem keyStoreOk_empty {s : State} (hv : s.status.kvalid = false) (hk : s.sessionKey = SessionKey.empty) :
    KeyStoreOk s := by
  unfold KeyStoreOk
  simp [hv, hk]

/-- A command of every kind keeps the key store's agreement with KVALID (10_state.md R33, R38). -/
theorem exec_keeps_keyStoreOk {i : Instr} {s t : State} (h : exec i s = .next t) (hs : KeyStoreOk s) : KeyStoreOk t := by
  rcases exec_next_cases h with ⟨_, rfl⟩ | ⟨klen, blen, -, hk, hb, rfl⟩ | ⟨_, rfl⟩ | rfl | ⟨-, rfl⟩
  · exact hs.congr rfl rfl
  · exact ⟨bufferBytes s.key klen, klen, blen, hk, hb, bufferBytes_length _ _, rfl⟩
  · exact hs.congr rfl rfl
  · exact hs.congr rfl rfl
  · exact keyStoreOk_empty rfl rfl

/-- A command of every kind keeps ST_PASS equal to ST_DONE: the first SELFTEST passes (43_control.md R195). -/
theorem exec_keeps_selfTestCache {i : Instr} {s t : State} (h : exec i s = .next t)
    (hs : s.status.stPass = s.status.stDone) : t.status.stPass = t.status.stDone := by
  rcases exec_next_cases h with ⟨_, rfl⟩ | ⟨_, _, -, -, -, rfl⟩ | ⟨_, rfl⟩ | rfl | ⟨-, rfl⟩
  · exact hs
  · exact hs
  · exact hs
  · simp [selfTestResult_true]
  · exact hs

/-- In an idle state the invariant is about the key store and the self-test's cache only. -/
theorem inv_of_idle {s : State} (hb : s.status.busy = false) (hk : KeyStoreOk s)
    (hc : s.status.stPass = s.status.stDone) : Inv s :=
  ⟨hk, hc, by simp [hb], by simp [hb]⟩

/-- A step that leaves STATUS, the key and a pending command's wait alone keeps the invariant. -/
theorem Quiet.keeps_inv {s t : State} (h : Quiet s t) (hs : Inv s) : Inv t where
  keyStore := hs.keyStore.congr (by rw [h.status]) h.sessionKey
  selfTestCache := by rw [h.status]; exact hs.selfTestCache
  noErrorWhilePending := by rw [h.status]; exact hs.noErrorWhilePending
  pendingIsAwaited hb := by
    rw [h.status] at hb
    rw [h.awaiting hb]
    exact hs.pendingIsAwaited hb

end Sys2Proof.Machine
end

section
/-! PROOF. The statements about 10_state.md. -/

namespace Sys2Proof.Machine

/-- Settles O47: a completion keeps the key store and the self-test's cache, an accept starts with ERR = NONE and an
awaited command, a reset clears everything, and every other step leaves what the invariant speaks of alone. -/
theorem stepKeepsInvariant : Obligations.StepKeepsInvariant := by
  unfold Obligations.StepKeepsInvariant
  intro s t hs h
  rcases step_next_effect h with ⟨-, i, -, he⟩ | ⟨-, -, rfl⟩ | ⟨-, rest, -, rfl⟩ |
    ⟨-, -, a, rest, v, -, -, -, -, rfl⟩ | ⟨-, -, hq⟩
  · exact inv_of_idle (exec_clears_busy he) (exec_keeps_keyStoreOk he hs.keyStore)
      (exec_keeps_selfTestCache he hs.selfTestCache)
  · exact inv_of_idle rfl (hs.keyStore.congr rfl rfl) hs.selfTestCache
  · exact inv_of_idle rfl (keyStoreOk_empty rfl rfl) rfl
  · exact ⟨hs.keyStore.congr rfl rfl, hs.selfTestCache, fun _ => rfl, fun _ => rfl⟩
  · exact hq.keeps_inv hs

/-- Settles O35: each clause is the case of the command's answer, of an illegal word, of an accept, of a read. -/
theorem flagsFollowCommandTable : Obligations.FlagsFollowCommandTable := by
  unfold Obligations.FlagsFollowCommandTable
  refine ⟨fun i s t h => ⟨exec_clears_busy h, ?_⟩, fun s t e hc hd h => ?_, fun s t v rest hb hi h => ?_,
    fun s t off rest _ hc hi h => ?_⟩
  · cases i with
    | nop => rw [← Host.Outcome.next.inj h]; rfl
    | makekey klen blen =>
      rcases execMakekey_next h with rfl | rfl | ⟨-, -, rfl⟩
      · exact .inr (.inl rfl)
      · exact .inr (.inr rfl)
      · exact .inl rfl
    | encrypt blen => exact exec_block_status (.inl rfl) h
    | decrypt blen => exact exec_block_status (.inr rfl) h
    | selftest =>
      rcases execSelftest_next h with ⟨hd, rfl⟩ | ⟨hd, rfl⟩
      · exact ⟨rfl, rfl, by simp [hd], fun _ => ⟨hd, rfl⟩⟩
      · exact ⟨rfl, rfl, fun _ => ⟨rfl, by simp⟩, by simp [hd]⟩
    | zeroize => rw [← Host.Outcome.next.inj h]; rfl
  · rw [step_core hc, coreStep_error hd] at h
    rw [← Host.Outcome.next.inj h]
    rfl
  · rw [step_write_cmd hb hi] at h
    rw [← Host.Outcome.next.inj h]
    rfl
  · rcases step_next_effect h with ⟨hc', -⟩ | ⟨hc', -⟩ | ⟨-, _, hr, -⟩ | ⟨-, -, a, _, v, ha, -, -, hk, -⟩ | ⟨-, -, hq⟩
    · simp [hc] at hc'
    · simp [hc] at hc'
    · simp [hi, windowInput] at hr
    · obtain ⟨rfl, -⟩ : { addr := Config.base + off, width := .word, kind := .read } = a ∧ _ := by
        simpa [hi, windowInput] using ha
      cases hk
    · exact hq.status

/-- Settles O38: only the completions of MAKEKEY and ZEROIZE and the reset input touch the store. -/
theorem sessionKeyReplacedOrClearedWhole : Obligations.SessionKeyReplacedOrClearedWhole := by
  unfold Obligations.SessionKeyReplacedOrClearedWhole
  intro s t h
  refine ⟨fun klen blen hc hd he => ?_, fun hc hd => ?_, fun rest hc hi => ?_, fun hm hz hr => ?_⟩
  · rw [step_completion hc hd] at h
    rcases execMakekey_next h with rfl | rfl | ⟨-, -, rfl⟩
    · cases he
    · cases he
    · rfl
  · rw [step_completion hc hd] at h
    rw [← Host.Outcome.next.inj h]
    rfl
  · rw [step_host hc, hostTurn_reset hi] at h
    rw [← Host.Outcome.next.inj h]
    rfl
  · rcases step_next_effect h with ⟨hc, i, hd, he⟩ | ⟨-, -, rfl⟩ | ⟨hc, rest, hi, -⟩ |
      ⟨-, -, a, rest, v, -, -, -, -, rfl⟩ | ⟨-, -, hq⟩
    · refine exec_keeps_sessionKey he ?_ fun hi => hz ⟨hc, hi ▸ hd⟩
      rintro ⟨⟨klen, blen, rfl⟩, hn⟩
      exact hm ⟨klen, blen, hc, hd, hn⟩
    · rfl
    · exact absurd ⟨hc, rest, hi⟩ hr
    · rfl
    · exact hq.sessionKey

/-- Settles O39: of the things a step can do only an accept sets BUSY, and only a completion or a reset clears it. -/
theorem busyChangesOnlyAtAcceptCompletionReset : Obligations.BusyChangesOnlyAtAcceptCompletionReset := by
  unfold Obligations.BusyChangesOnlyAtAcceptCompletionReset
  intro s t h
  rcases step_next_effect h with ⟨hc, i, -, he⟩ | ⟨hc, -, rfl⟩ | ⟨hc, rest, hi, rfl⟩ |
    ⟨hc, hb, a, rest, v, hi, ho, hw, hk, rfl⟩ | ⟨hc, -, hq⟩
  · simp [hc, exec_clears_busy he]
  · simp [hc, completeIllegal]
  · simp [hc, hi, State.reset]
  · exact ⟨fun _ _ => ⟨a, rest, v, hi, ho, hw, hk, rfl⟩, by simp [hb], by simp [hc]⟩
  · have hst := hq.status
    exact ⟨fun h0 h1 => by simp [hst, h0] at h1, fun h1 h0 => by simp [hst, h1] at h0, by simp [hc]⟩

/-- Settles O40: an idle machine's step is the host's turn, which does not read PENDING. -/
theorem pendingUnreadWhileIdle : Obligations.PendingUnreadWhileIdle := by
  unfold Obligations.PendingUnreadWhileIdle
  intro s v hb
  have hagree := step_setPending_of_idle hb v
  refine ⟨fun hi => by rw [step_host (coreTurn_of_idle hb), hostTurn_nil hi], fun t ht => ?_, fun f hf => ?_⟩
  · rw [ht] at hagree
    exact hagree.of_next
  · rw [hf] at hagree
    exact hagree.of_fault

/-- Settles O17, from the concatenations STATUS and KINFO are. -/
theorem statusAndKinfoWordsFollowLayout : Obligations.StatusAndKinfoWordsFollowLayout := by
  unfold Obligations.StatusAndKinfoWordsFollowLayout
  refine ⟨fun st => ?_, KInfo.word_fields⟩
  obtain ⟨hbusy, hkvalid, hdone, hpass⟩ := st.word_flags
  obtain ⟨herr, hlow, hhigh⟩ := st.word_err_reserved
  refine ⟨hbusy, hkvalid, hdone, hpass, hlow, hhigh, ?_⟩
  rw [herr]
  cases st.err <;> rfl

/-- Settles O57: byte 4i+j lies in word i by division, and `w2b` takes a packed word apart again. -/
theorem bufferBytesBigEndian : Obligations.BufferBytesBigEndian := by
  unfold Obligations.BufferBytesBigEndian
  refine ⟨fun buf i j hj => ?_, fun b0 b1 b2 b3 => ?_⟩
  · have hword : (4 * i.val + j) / 4 = i.val := by omega
    have hbyte : (4 * i.val + j) % 4 = j := by omega
    rw [bufferByte, hword, hbyte, wordAt_eq buf i.isLt]
    rfl
  · simpa only [w2b, Column.word, Column.mk.injEq] using w2b_word ⟨b0, b1, b2, b3⟩

end Sys2Proof.Machine
end

section
/-! PROOF. The facts the statements about 20_memory.md rest on: what a host access that goes through leaves, what a read
of the map returns, and which registers a write leaves alone. -/

namespace Sys2Proof.Machine

/-! ### Host accesses that go through -/

/-- An access that goes through passed the alignment check and was performed (60_exceptions.md R218). -/
theorem step_access_next {s t : State} {off : Nat} {width : Width} {kind : AccessKind} {rest : List Input}
    (ho : off < windowSize) (hc : coreTurn s = false) (hi : s.inputs = windowInput off width kind :: rest)
    (h : step s = .next t) : off % 4 = 0 ∧ t = performAccess off kind (advance rest s) := by
  rw [step_host hc, hostTurn_access hi, busAccess_window ho] at h
  rcases windowAccess_cases off width kind (advance rest s) with ⟨-, hf⟩ | ⟨-, -, -, -, hf⟩ | ⟨-, h4, -, hn⟩
  · rw [hf] at h; cases h
  · rw [hf] at h; cases h
  · rw [hn] at h
    exact ⟨h4, (Host.Outcome.next.inj h).symm⟩

/-- An idle machine's aligned 32-bit access goes through (60_exceptions.md R218). -/
theorem step_access_of_idle {s : State} {off : Nat} {kind : AccessKind} {rest : List Input} (ho : off < windowSize)
    (h4 : off % 4 = 0) (hb : s.status.busy = false) (hi : s.inputs = windowInput off .word kind :: rest) :
    step s = .next (performAccess off kind (advance rest s)) := by
  rw [step_host (coreTurn_of_idle hb), hostTurn_access hi, busAccess_window ho]
  simp [windowAccess, h4, hb]

/-! ### Reads -/

/-- No read of the window returns the host's own part of the state (20_memory.md R61). -/
@[simp] theorem readReg_advance (r : Reg) (rest : List Input) (s : State) : readReg r (advance rest s) = readReg r s := by
  cases r <;> rfl

/-- What a read by an idle machine's host leaves: the value noted, and the wait ended by a read of STATUS, which returns
BUSY = 0 (70_reset_and_hazards.md R245). -/
theorem performAccess_read_of_idle {s : State} (hb : s.status.busy = false) (off : Nat) (rest : List Input) :
    performAccess off .read (advance rest s) = { s with
      inputs := rest, hold := s.hold - 1, returned := (off, windowWord off s) :: s.returned
      awaiting := s.awaiting && off != statusOffset } := by
  have hwait : (!(off == statusOffset && !(windowWord off s).getLsbD 0)) = (off != statusOffset) := by
    by_cases hoff : off = statusOffset
    · have hbusy : (windowWord off s).getLsbD 0 = false := by
        rw [hoff]
        exact s.status.word_flags.1.trans hb
      rw [hbusy, Bool.not_false, Bool.and_true, bne]
    · simp only [bne, beq_false_of_ne hoff, Bool.false_and]
  simp only [performAccess, readReg_advance, noteRead]
  rw [← hwait]
  rfl

/-- The offsets of the map with no register (20_memory.md R61, R64). -/
theorem atOffset_reserved {off : Nat} (h4 : off % 4 = 0)
    (h : (0x014 ≤ off ∧ off ≤ 0x03C) ∨ (0x060 ≤ off ∧ off ≤ 0x07C) ∨ (0x0A0 ≤ off ∧ off ≤ 0x0BC) ∨
      (0x0E0 ≤ off ∧ off ≤ 0x3FC) ∨ (0x5E0 ≤ off ∧ off ≤ 0x5FC) ∨ (0x7E0 ≤ off ∧ off ≤ 0xFFC)) :
    Reg.atOffset off = .reserved := by
  rcases atOffset_cases off with ⟨ho, -⟩ | ⟨ho, -⟩ | ⟨ho, -⟩ | ⟨ho, -⟩ | ⟨ho, -⟩ | ⟨ho, -⟩ | ⟨ho, -⟩ | ⟨ho, -⟩ | ⟨ho, -⟩ |
    ⟨ho, -⟩ | ⟨-, e⟩
  iterate 10
    · omega
  · exact e

/-- Word i of KEY reads as KEY[i] (20_memory.md R61). -/
theorem windowWord_key (i : Fin 8) (s : State) : windowWord (0x040 + 4 * i.val) s = s.key[i] := by
  rw [windowWord, atOffset_key i.isLt]
  exact wordAt_eq s.key i.isLt

/-- Word i of DIN reads as DIN[i] (20_memory.md R61). -/
theorem windowWord_din (i : Fin 8) (s : State) : windowWord (0x080 + 4 * i.val) s = s.din[i] := by
  rw [windowWord, atOffset_din i.isLt]
  exact wordAt_eq s.din i.isLt

/-- Word i of DOUT reads as DOUT[i] (20_memory.md R61). -/
theorem windowWord_dout (i : Fin 8) (s : State) : windowWord (0x0C0 + 4 * i.val) s = s.dout[i] := by
  rw [windowWord, atOffset_dout i.isLt]
  exact wordAt_eq s.dout i.isLt

/-- Word w of EKflat reads as EKflat[w] (20_memory.md R61). -/
theorem windowWord_ek (w : Fin 120) (s : State) : windowWord (0x400 + 4 * w.val) s = s.ek[w] := by
  rw [windowWord, atOffset_ek w.isLt]
  exact wordAt_eq s.ek w.isLt

/-- Word w of DKflat reads as DKflat[w] (20_memory.md R61). -/
theorem windowWord_dk (w : Fin 120) (s : State) : windowWord (0x600 + 4 * w.val) s = s.dk[w] := by
  rw [windowWord, atOffset_dk w.isLt]
  exact wordAt_eq s.dk w.isLt

/-! ### Writes -/

/-- A write outside CMD, KEY and DIN does nothing (20_memory.md R64, R65). -/
theorem writeReg_ignored {off : Nat} (hcmd : off ≠ 0x008) (hkey : ¬ (0x040 ≤ off ∧ off ≤ 0x05C))
    (hdin : ¬ (0x080 ≤ off ∧ off ≤ 0x09C)) (v : Word) (s : State) : writeReg (Reg.atOffset off) v s = s := by
  rcases writeReg_cases (Reg.atOffset off) v s with ⟨i, hr, -⟩ | ⟨i, hr, -⟩ | ⟨hr, -⟩ | ⟨-, -, -, e⟩
  · exact absurd (atOffset_eq_key hr).1 hkey
  · exact absurd (atOffset_eq_din hr).1 hdin
  · exact absurd (atOffset_eq_cmd.1 hr) hcmd
  · exact e

/-- Only CMD's write changes STATUS or PENDING (20_memory.md R69). -/
theorem writeReg_keeps_status_pending {r : Reg} (hcmd : r ≠ .cmd) (v : Word) (s : State) :
    (writeReg r v s).status = s.status ∧ (writeReg r v s).pending = s.pending := by
  rcases writeReg_cases r v s with ⟨i, -, e⟩ | ⟨i, -, e⟩ | ⟨hr, -⟩ | ⟨-, -, -, e⟩
  · rw [e]; exact ⟨rfl, rfl⟩
  · rw [e]; exact ⟨rfl, rfl⟩
  · exact absurd hr hcmd
  · rw [e]; exact ⟨rfl, rfl⟩

/-- Register i of a buffer written, i in range: the vector's own update. -/
theorem setWord_eq_set (buf : Vector Word 8) (i : Fin 8) (v : Word) : setWord buf i v = buf.set i v := by
  ext j hj
  rw [setWord_getElem, Vector.getElem_set]

end Sys2Proof.Machine
end

section
/-! PROOF. The statements about 20_memory.md. -/

namespace Sys2Proof.Machine

/-- Settles O11: the value read is the word of the map at the offset, and the read leaves only its note. -/
theorem readReturnsMappedRegister : Obligations.ReadReturnsMappedRegister := by
  unfold Obligations.ReadReturnsMappedRegister
  intro s off rest ho h4 hb hi
  have hstep := (step_access_of_idle ho h4 hb hi).trans
    (congrArg Host.Outcome.next (performAccess_read_of_idle hb off rest))
  refine ⟨windowWord off s, hstep, ?_, ?_, ?_, ?_, ?_, ?_, ?_, ?_, ?_, ?_, fun hres => ?_⟩
  · rintro rfl; rfl
  · rintro rfl; rfl
  · rintro rfl; rfl
  · rintro rfl; rfl
  · rintro rfl; rfl
  · rintro i rfl; exact windowWord_key i s
  · rintro i rfl; exact windowWord_din i s
  · rintro i rfl; exact windowWord_dout i s
  · rintro w rfl; exact windowWord_ek w s
  · rintro w rfl; exact windowWord_dk w s
  · rw [windowWord, atOffset_reserved h4 hres]; rfl

/-- Settles O15: an access that goes through is performed; a read only notes its value, a write off CMD stays within its
register, and a write to CMD is the accept. -/
theorem onlyCmdWritesActBeyondTheirRegister : Obligations.OnlyCmdWritesActBeyondTheirRegister := by
  unfold Obligations.OnlyCmdWritesActBeyondTheirRegister
  intro s t off width kind rest ho hc hi h
  obtain ⟨h4, rfl⟩ := step_access_next ho hc hi h
  refine ⟨?_, ?_, ?_⟩
  · rintro rfl
    exact ⟨rfl, rfl, rfl, rfl, rfl, rfl, rfl, rfl⟩
  · rintro v rfl hcmd
    obtain ⟨hst, hp⟩ := writeReg_keeps_status_pending (mt atOffset_eq_cmd.1 hcmd) v (advance rest s)
    refine ⟨hst, hp, fun o ho4 hne => ?_⟩
    exact (readReg_writeReg_other v (advance rest s) h4 hcmd ho4 hne).trans (readReg_advance _ rest s)
  · rintro v rfl rfl
    exact ⟨rfl, rfl, rfl, rfl, rfl, rfl, rfl, rfl⟩

/-- Settles O12: the access goes through, and the register at its offset ignores the write. -/
theorem writeToReadOnlyOrReservedIsIgnored : Obligations.WriteToReadOnlyOrReservedIsIgnored := by
  unfold Obligations.WriteToReadOnlyOrReservedIsIgnored
  intro s off v rest ho h4 hcmd hkey hdin hb hi
  rw [step_access_of_idle ho h4 hb hi, performAccess, writeReg_ignored hcmd hkey hdin]
  rfl

/-- Settles O13: the access goes through, KEY[i] or DIN[i] stands at its offset, and its buffer takes the word. -/
theorem writeToBufferSetsOneWord : Obligations.WriteToBufferSetsOneWord := by
  unfold Obligations.WriteToBufferSetsOneWord
  intro s i v rest hb
  refine ⟨fun hi => ?_, fun hi => ?_⟩
  · rw [step_access_of_idle (by simp only [windowSize]; omega) (by omega) hb hi, performAccess, atOffset_key i.isLt,
      ← setWord_eq_set]
    rfl
  · rw [step_access_of_idle (by simp only [windowSize]; omega) (by omega) hb hi, performAccess, atOffset_din i.isLt,
      ← setWord_eq_set]
    rfl

end Sys2Proof.Machine
end

section
/-! PROOF. The facts the statements about 30_encoding.md rest on: the fields of a command word under the opcode mask, the
decoder as one equivalence, the length fields of an encoding, and what the writes of `LDKEY` leave in KEY. -/

namespace Sys2Proof

/-! ### The fields of a command word under the opcode mask (30_encoding.md R91, R95) -/

/-- A command word is its five fields, RSV2 first (30_encoding.md R91). -/
theorem cmd_eq_fields (cmd : Word) :
    cmd = rsv2Field cmd ++ cmd.extractLsb' 16 6 ++ rsv1Field cmd ++ cmd.extractLsb' 8 6 ++ opField cmd := by
  simp only [rsv2Field, rsv1Field, opField]
  rw [BitVec.extractLsb'_append_extractLsb'_eq_extractLsb' (by rfl),
    BitVec.extractLsb'_append_extractLsb'_eq_extractLsb' (by rfl),
    BitVec.extractLsb'_append_extractLsb'_eq_extractLsb' (by rfl),
    BitVec.extractLsb'_append_extractLsb'_eq_extractLsb' (by rfl)]
  exact BitVec.extractLsb'_eq_self.symm

/-- The mask keeps RSV2, RSV1 and OP where they stand and clears the two lengths. -/
theorem and_opcodeMask (cmd : Word) :
    cmd &&& opcodeMask = rsv2Field cmd ++ 0#6 ++ rsv1Field cmd ++ 0#6 ++ opField cmd := by
  have hmask : opcodeMask =
      BitVec.allOnes 10 ++ 0#6 ++ BitVec.allOnes 2 ++ 0#6 ++ BitVec.allOnes 8 := by decide
  have hkeep (a : BitVec 10) (b : BitVec 6) (c : BitVec 2) (d : BitVec 6) (e : BitVec 8) :
      (a ++ b ++ c ++ d ++ e) &&& (BitVec.allOnes 10 ++ 0#6 ++ BitVec.allOnes 2 ++ 0#6 ++ BitVec.allOnes 8) =
        a ++ 0#6 ++ c ++ 0#6 ++ e := by
    simp only [BitVec.and_append, BitVec.and_allOnes, BitVec.and_zero]
  exact (congrArg₂ HAnd.hAnd (cmd_eq_fields cmd) hmask).trans (hkeep ..)

/-- The masked word as a number: RSV2, RSV1 and OP with their weights. -/
theorem toNat_and_opcodeMask (cmd : Word) : (cmd &&& opcodeMask).toNat =
    2 ^ 22 * (rsv2Field cmd).toNat + 2 ^ 14 * (rsv1Field cmd).toNat + (opField cmd).toNat := by
  rw [and_opcodeMask]
  simp only [BitVec.toNat_append, ← Nat.shiftLeft_add_eq_or_of_lt (BitVec.isLt _)]
  simp only [Nat.shiftLeft_eq, BitVec.toNat_zero]
  omega

/-- Every match value is an OP of the opcode table (30_encoding.md R94). -/
theorem opcodeMatch_toNat_le (i : Instr) : (opcodeMatch i).toNat ≤ 5 := by
  cases i <;> simp [opcodeMatch]

/-- A word meets a row of the opcode table when its reserved bits are 0 and its OP is the row's (30_encoding.md R95). -/
theorem and_opcodeMask_eq_match_iff (cmd : Word) (i : Instr) : cmd &&& opcodeMask = opcodeMatch i ↔
    rsv2Field cmd = 0 ∧ rsv1Field cmd = 0 ∧ (opField cmd).toNat = (opcodeMatch i).toNat := by
  have hle := opcodeMatch_toNat_le i
  have hop := (opField cmd).isLt
  simp only [← BitVec.toNat_inj, toNat_and_opcodeMask, BitVec.ofNat_eq_ofNat, BitVec.toNat_zero]
  omega

/-! ### The decoder as one equivalence (30_encoding.md R95) -/

/-- The lengths a command carries are those of a word's fields (30_encoding.md R92, R93). -/
def LengthsRead (cmd : Word) : Instr → Prop
  | .nop => True
  | .makekey klen blen => klen = klenField cmd ∧ blen = blenField cmd
  | .encrypt blen => blen = blenField cmd
  | .decrypt blen => blen = blenField cmd
  | .selftest => True
  | .zeroize => True

/-- A word decodes to a command exactly when it meets the command's row and holds its lengths (30_encoding.md R95). -/
theorem decode_ok_iff (cmd : Word) (i : Instr) :
    decode cmd = .ok i ↔ cmd &&& opcodeMask = opcodeMatch i ∧ LengthsRead cmd i := by
  rw [and_opcodeMask_eq_match_iff]
  constructor
  · intro h
    obtain ⟨h2, h1, hi⟩ := decode_ok h
    cases i with
    | nop => exact ⟨⟨h2, h1, hi⟩, trivial⟩
    | makekey klen blen => exact ⟨⟨h2, h1, hi.1⟩, hi.2⟩
    | encrypt blen => exact ⟨⟨h2, h1, hi.1⟩, hi.2⟩
    | decrypt blen => exact ⟨⟨h2, h1, hi.1⟩, hi.2⟩
    | selftest => exact ⟨⟨h2, h1, hi⟩, trivial⟩
    | zeroize => exact ⟨⟨h2, h1, hi⟩, trivial⟩
  · rintro ⟨⟨h2, h1, hop⟩, hl⟩
    have hrsv : ¬ (rsv2Field cmd ≠ 0 ∨ rsv1Field cmd ≠ 0) := by simp [h2, h1]
    rw [decode, if_neg hrsv, hop]
    cases i with
    | nop => rfl
    | makekey klen blen => obtain ⟨rfl, rfl⟩ := hl; rfl
    | encrypt blen => cases hl; rfl
    | decrypt blen => cases hl; rfl
    | selftest => rfl
    | zeroize => rfl

/-- Every value up to 5 is the row of a command with the word's own lengths (30_encoding.md R94). -/
theorem exists_match_of_le {cmd : Word} (h : (cmd &&& opcodeMask).toNat ≤ 5) :
    ∃ i, cmd &&& opcodeMask = opcodeMatch i ∧ LengthsRead cmd i := by
  have hrow : ∀ m : Word, m.toNat ≤ 5 → m = 0 ∨ m = 1 ∨ m = 2 ∨ m = 3 ∨ m = 4 ∨ m = 5 := by
    intro m hm
    bv_omega
  rcases hrow _ h with e | e | e | e | e | e
  · exact ⟨.nop, e, trivial⟩
  · exact ⟨.makekey (klenField cmd) (blenField cmd), e, rfl, rfl⟩
  · exact ⟨.encrypt (blenField cmd), e, rfl⟩
  · exact ⟨.decrypt (blenField cmd), e, rfl⟩
  · exact ⟨.selftest, e, trivial⟩
  · exact ⟨.zeroize, e, trivial⟩

/-- A word is ILLEGAL exactly when its masked value is above every OP of the table (30_encoding.md R95, R96). -/
theorem decode_error_iff (cmd : Word) : (∃ e, decode cmd = .error e) ↔ 5 < (cmd &&& opcodeMask).toNat := by
  constructor
  · rintro ⟨e, he⟩
    by_contra hle
    obtain ⟨i, hi⟩ := exists_match_of_le (not_lt.mp hle)
    rw [(decode_ok_iff cmd i).2 hi] at he
    cases he
  · intro hlt
    cases hd : decode cmd with
    | error e => exact ⟨e, rfl⟩
    | ok i =>
      have hle := opcodeMatch_toNat_le i
      rw [← ((decode_ok_iff cmd i).1 hd).1] at hle
      omega

/-- KLEN by arithmetic (30_encoding.md R92). -/
theorem klenField_eq (cmd : Word) : klenField cmd = cmd.toNat / 2 ^ 8 % 64 := by
  rw [klenField, BitVec.extractLsb'_toNat, Nat.shiftRight_eq_div_pow]

/-- BLEN by arithmetic (30_encoding.md R93). -/
theorem blenField_eq (cmd : Word) : blenField cmd = cmd.toNat / 2 ^ 16 % 64 := by
  rw [blenField, BitVec.extractLsb'_toNat, Nat.shiftRight_eq_div_pow]

/-! ### The length fields of an encoding (30_encoding.md R98) -/

/-- Bit j of a length, moved up by its place. -/
theorem placeLength_getLsbD (n place j : Nat) :
    (placeLength n place).getLsbD j = (decide (j < 32) && !decide (j < place) && n.testBit (j - place)) := by
  rw [placeLength, BitVec.getLsbD_shiftLeft, BitVec.getLsbD_ofNat]
  by_cases hj : j < 32
  · simp [show j - place < 32 by omega]
  · simp [hj]

/-- A length's own field of its placed word. -/
theorem extract_placeLength_same (n : Nat) {place : Nat} (h : place + 6 ≤ 32) :
    (placeLength n place).extractLsb' place 6 = BitVec.ofNat 6 n := by
  apply BitVec.eq_of_getLsbD_eq
  intro j hj
  rw [BitVec.getLsbD_extractLsb', placeLength_getLsbD, BitVec.getLsbD_ofNat]
  simp [show place + j < 32 by omega]

/-- A length of six bits is not seen in a field beside its own. -/
theorem extract_placeLength_other {n place other : Nat} (hn : n ≤ 63) (h : place + 6 ≤ other ∨ other + 6 ≤ place) :
    (placeLength n place).extractLsb' other 6 = 0 := by
  apply BitVec.eq_of_getLsbD_eq
  intro j hj
  rw [BitVec.getLsbD_extractLsb', placeLength_getLsbD, BitVec.ofNat_eq_ofNat, BitVec.getLsbD_zero]
  rcases h with h | h
  · have hpow : 2 ^ 6 ≤ 2 ^ (other + j - place) := Nat.pow_le_pow_right (by decide) (by omega)
    rw [Nat.testBit_lt_two_pow (by omega), Bool.and_false, Bool.and_false]
  · simp [show other + j < place by omega]

/-- A field of a word placed where it stands is the word under the field's mask. -/
theorem placeLength_extract (cmd : Word) (place : Nat) :
    placeLength (cmd.extractLsb' place 6).toNat place = cmd &&& (63#32 <<< place) := by
  have hones (j : Nat) : (63#32).getLsbD j = decide (j < 6) := by
    rw [show 63#32 = (BitVec.allOnes 6).setWidth 32 by decide, BitVec.getLsbD_setWidth, BitVec.getLsbD_allOnes]
    grind
  apply BitVec.eq_of_getLsbD_eq
  intro j hj
  rw [placeLength_getLsbD, BitVec.testBit_toNat, BitVec.getLsbD_extractLsb', BitVec.getLsbD_and, BitVec.getLsbD_shiftLeft,
    hones]
  by_cases hp : j < place
  · simp [hp]
  · rw [show place + (j - place) = j by omega, Bool.and_comm (cmd.getLsbD j)]
    simp only [Bool.and_assoc]

/-- MAKEKEY is well-formed when both its lengths fit their fields (30_encoding.md R98). -/
theorem wellFormed_makekey_iff (klen blen : Nat) :
    (Instr.makekey klen blen).wellFormed = true ↔ klen ≤ 63 ∧ blen ≤ 63 := by
  simp [Instr.wellFormed, lengthEncodable]

/-- ENCRYPT is well-formed when its length fits its field (30_encoding.md R98). -/
theorem wellFormed_encrypt_iff (blen : Nat) : (Instr.encrypt blen).wellFormed = true ↔ blen ≤ 63 := by
  simp [Instr.wellFormed, lengthEncodable]

/-- DECRYPT is well-formed when its length fits its field (30_encoding.md R98). -/
theorem wellFormed_decrypt_iff (blen : Nat) : (Instr.decrypt blen).wellFormed = true ↔ blen ≤ 63 := by
  simp [Instr.wellFormed, lengthEncodable]

/-- The fields of an encoding hold the lengths of a well-formed command (30_encoding.md R98). -/
theorem lengthsRead_encode {i : Instr} (h : i.wellFormed = true) : LengthsRead (encode i) i := by
  have hsix {n : Nat} (hn : n ≤ 63) : n % 64 = n := Nat.mod_eq_of_lt (by omega)
  cases i with
  | nop => trivial
  | selftest => trivial
  | zeroize => trivial
  | makekey klen blen =>
    obtain ⟨hk, hb⟩ := (wellFormed_makekey_iff klen blen).1 h
    constructor
    · simp [klenField, encode, BitVec.extractLsb'_or, extract_placeLength_same,
        extract_placeLength_other hb (place := 16) (other := 8) (.inr (by decide)), hsix hk]
    · simp [blenField, encode, BitVec.extractLsb'_or, extract_placeLength_same,
        extract_placeLength_other hk (place := 8) (other := 16) (.inl (by decide)), hsix hb]
  | encrypt blen =>
    simp [LengthsRead, blenField, encode, BitVec.extractLsb'_or, extract_placeLength_same,
      hsix ((wellFormed_encrypt_iff blen).1 h)]
  | decrypt blen =>
    simp [LengthsRead, blenField, encode, BitVec.extractLsb'_or, extract_placeLength_same,
      hsix ((wellFormed_decrypt_iff blen).1 h)]

/-- The encoding of a well-formed command meets the command's row (30_encoding.md R95, R98). -/
theorem encode_and_opcodeMask {i : Instr} (h : i.wellFormed = true) : encode i &&& opcodeMask = opcodeMatch i := by
  cases i with
  | nop => exact Laws.Opcode.nop h
  | makekey klen blen => exact Laws.Opcode.makekey klen blen h
  | encrypt blen => exact Laws.Opcode.encrypt blen h
  | decrypt blen => exact Laws.Opcode.decrypt blen h
  | selftest => exact Laws.Opcode.selftest h
  | zeroize => exact Laws.Opcode.zeroize h

/-- A command that carries a word's own lengths is well-formed (30_encoding.md R91, R98). -/
theorem LengthsRead.wellFormed {cmd : Word} {i : Instr} (h : LengthsRead cmd i) : i.wellFormed = true := by
  cases i with
  | nop => rfl
  | selftest => rfl
  | zeroize => rfl
  | makekey klen blen =>
    obtain ⟨rfl, rfl⟩ := h
    exact (wellFormed_makekey_iff _ _).2 ⟨klenField_le cmd, blenField_le cmd⟩
  | encrypt blen =>
    cases h
    exact (wellFormed_encrypt_iff _).2 (blenField_le cmd)
  | decrypt blen =>
    cases h
    exact (wellFormed_decrypt_iff _).2 (blenField_le cmd)

/-- An encoding is the match value of its row with the lengths placed beside it; a word that meets the row and holds the
lengths has these bits under the mask of what the command reads (30_encoding.md R95, R98). -/
theorem encode_eq_and_readMask {cmd : Word} {i : Instr} (hm : cmd &&& opcodeMask = opcodeMatch i)
    (hl : LengthsRead cmd i) : encode i = cmd &&& readMask i := by
  have hk : placeLength (klenField cmd) 8 = cmd &&& 0x00003F00 := placeLength_extract cmd 8
  have hb : placeLength (blenField cmd) 16 = cmd &&& 0x003F0000 := placeLength_extract cmd 16
  cases i with
  | nop => exact hm.symm
  | selftest => exact hm.symm
  | zeroize => exact hm.symm
  | makekey klen blen =>
    obtain ⟨rfl, rfl⟩ := hl
    calc encode (.makekey (klenField cmd) (blenField cmd))
        = cmd &&& 0x003F0000 ||| cmd &&& 0x00003F00 ||| cmd &&& opcodeMask := by rw [hm, ← hk, ← hb]; rfl
      _ = cmd &&& readMask (.makekey (klenField cmd) (blenField cmd)) := by
        rw [← BitVec.and_or_distrib_left, ← BitVec.and_or_distrib_left]; rfl
  | encrypt blen =>
    cases hl
    calc encode (.encrypt (blenField cmd)) = cmd &&& 0x003F0000 ||| cmd &&& opcodeMask := by rw [hm, ← hb]; rfl
      _ = cmd &&& readMask (.encrypt (blenField cmd)) := by rw [← BitVec.and_or_distrib_left]; rfl
  | decrypt blen =>
    cases hl
    calc encode (.decrypt (blenField cmd)) = cmd &&& 0x003F0000 ||| cmd &&& opcodeMask := by rw [hm, ← hb]; rfl
      _ = cmd &&& readMask (.decrypt (blenField cmd)) := by rw [← BitVec.and_or_distrib_left]; rfl

end Sys2Proof

namespace Sys2Proof.Machine

/-! ### What the writes of `LDKEY` leave in KEY (30_encoding.md R99, 10_state.md R23) -/

/-- A run of `n` writes of words to KEY, the first of them to `KEY[k]`, as `LDKEY` expands to. -/
def keyWrites (w : Nat → Word) (k n : Nat) : List Input :=
  (List.range' k n).map fun i => writeAt (0x040 + 4 * i) (w i)

/-- An idle machine performs a run of writes to KEY one step each: those words of KEY are the written ones, and nothing
else but the host's place in its list changes (20_memory.md R61). -/
theorem run_keyWrites (w : Nat → Word) (rest : List Input) {k n : Nat} (hkn : k + n ≤ 8) {s : State}
    (hb : s.status.busy = false) (hi : s.inputs = keyWrites w k n ++ rest) :
    ∃ t : State, Sys2Proof.core.run n s = .next t ∧ t = { s with inputs := rest, hold := t.hold, key := t.key } ∧
      ∀ j < 8, wordAt t.key j = if k ≤ j ∧ j < k + n then w j else wordAt s.key j := by
  induction n generalizing k s with
  | zero =>
    refine ⟨s, rfl, ?_, fun j _ => by rw [if_neg (by omega)]⟩
    rw [← show s.inputs = rest from hi]
  | succ n ih =>
    have hk : k < 8 := by omega
    have hstep := (writeToBufferSetsOneWord s ⟨k, hk⟩ (w k) (keyWrites w (k + 1) n ++ rest) hb).1 hi
    rw [← setWord_eq_set] at hstep
    obtain ⟨t, hrun, ht, hkey⟩ := ih (k := k + 1) (s := { s with
      inputs := keyWrites w (k + 1) n ++ rest, hold := s.hold - 1, key := setWord s.key k (w k) }) (by omega) hb rfl
    refine ⟨t, (core_run_next hstep).trans hrun, ht, fun j hj => ?_⟩
    rw [hkey j hj, wordAt_setWord _ _ _ hj]
    grind

/-- Byte j of word i of a byte string is its byte 4i + j (41_makekey.md R152). -/
theorem bytesWord_byte (bs : List Byte) (i : Nat) {j : Nat} (hj : j < 4) :
    (bytesWord bs i).extractLsb' (24 - 8 * j) 8 = bs.getD (4 * i + j) 0 := by
  have hcol : w2b (bytesWord bs i) = bytesColumn bs i := w2b_word (bytesColumn bs i)
  simp only [w2b, bytesColumn, Column.mk.injEq] at hcol
  obtain ⟨h0, h1, h2, h3⟩ := hcol
  interval_cases j
  · exact h0
  · exact h1
  · exact h2
  · exact h3

/-- A `CMD` statement has no expansion exactly when an assembler refuses its command (30_encoding.md R98, R99). -/
theorem cmd_inputs_eq_none_iff (i : Instr) : (HostStmt.cmd i).inputs = none ↔ ¬ i.wellFormed = true := by
  simp [HostStmt.inputs]

end Sys2Proof.Machine
end

section
/-! PROOF. The statements about 30_encoding.md. -/

namespace Sys2Proof.Machine

/-- Settles O5: an encoding meets its command's row and holds its lengths. -/
theorem encodedCommandDecodesToItself : Obligations.EncodedCommandDecodesToItself := by
  unfold Obligations.EncodedCommandDecodesToItself
  intro i h
  exact (decode_ok_iff (encode i) i).2 ⟨encode_and_opcodeMask h, lengthsRead_encode h⟩

/-- Settles O4: each clause is the decoder's equivalence at one command, its lengths by arithmetic. -/
theorem decodeFollowsMaskAndMatch : Obligations.DecodeFollowsMaskAndMatch := by
  unfold Obligations.DecodeFollowsMaskAndMatch
  intro cmd
  rw [← klenField_eq, ← blenField_eq]
  refine ⟨?_, fun k b => decode_ok_iff cmd (.makekey k b), fun b => decode_ok_iff cmd (.encrypt b),
    fun b => decode_ok_iff cmd (.decrypt b), ?_, ?_, decode_error_iff cmd⟩
  · exact (decode_ok_iff cmd .nop).trans (and_iff_left trivial)
  · exact (decode_ok_iff cmd .selftest).trans (and_iff_left trivial)
  · exact (decode_ok_iff cmd .zeroize).trans (and_iff_left trivial)

/-- Settles O6: a decoded command carries its word's lengths, and its encoding puts the bits it reads back. -/
theorem decodedCommandEncodesToItsReadBits : Obligations.DecodedCommandEncodesToItsReadBits := by
  unfold Obligations.DecodedCommandEncodesToItsReadBits
  intro cmd i h
  obtain ⟨hm, hl⟩ := (decode_ok_iff cmd i).1 h
  exact ⟨hl.wellFormed, encode_eq_and_readMask hm hl⟩

/-- Settles O45: `LDKEY` is a run of writes to KEY from word 0, and a byte of KEY is a byte of the word that holds it. -/
theorem ldkeyFillsKeyBuffer : Obligations.LdkeyFillsKeyBuffer := by
  unfold Obligations.LdkeyFillsKeyBuffer
  intro s bytes ins rest hlen hb hins hi
  have hwords : 4 * (bytes.length / 4) = bytes.length ∧ bytes.length / 4 ≤ 8 := by
    generalize bytes.length = n at hlen
    revert n
    decide
  have hexp : ins = keyWrites (bytesWord bytes) 0 (bytes.length / 4) := by
    rw [keyWrites, ← List.range_eq_range']
    exact (Option.some.inj hins).symm
  obtain ⟨t, hrun, ht, hkey⟩ := run_keyWrites (bytesWord bytes) rest (by omega) hb (hexp ▸ hi)
  refine ⟨t, hrun, ht, fun i hin => ?_, fun i hout h32 => ?_⟩
  · rw [bufferByte, hkey _ (by omega), if_pos (by omega), bytesWord_byte bytes _ (Nat.mod_lt i (by decide)),
      Nat.div_add_mod]
  · rw [bufferByte, hkey _ (by omega), if_neg (by omega), bufferByte]

/-- Settles O46: the one access of `CMD m` is the accept of m's encoding, which decodes to m. -/
theorem cmdStatementLeavesCommandPending : Obligations.CmdStatementLeavesCommandPending := by
  unfold Obligations.CmdStatementLeavesCommandPending
  refine ⟨fun s i ins rest hins hi hb => ?_, fun klen blen => ?_, fun blen => ⟨?_, ?_⟩⟩
  · obtain ⟨hw, rfl⟩ : i.wellFormed = true ∧ [writeAt cmdOffset (encode i)] = ins := by
      simpa [HostStmt.inputs] using hins
    exact ⟨_, step_write_cmd hb hi, rfl, encodedCommandDecodesToItself i hw, rfl⟩
  · rw [cmd_inputs_eq_none_iff, wellFormed_makekey_iff]; omega
  · rw [cmd_inputs_eq_none_iff, wellFormed_encrypt_iff, not_le]
  · rw [cmd_inputs_eq_none_iff, wellFormed_decrypt_iff, not_le]

/-- Settles O2: a placed word is pending with no input before its completion, so the step is the core's. -/
theorem placedWordRunsItsCommand : Obligations.PlacedWordRunsItsCommand := by
  unfold Obligations.PlacedWordRunsItsCommand
  intro s w i hw hd
  have hdecode : decode (s.withFetchWord 32 w).pending = .ok i := by
    unfold decodeTableWord at hd
    split at hd
    · next hok => exact hok.trans (congrArg _ (Option.some.inj hd))
    · cases hd
  refine ⟨?_, step_completion rfl hdecode⟩
  simpa [State.withFetchWord] using hw

/-- Settles O7: each worked word is its well-formed command's encoding, so it decodes to it; 15 is no supported key
length. -/
theorem workedEncodingsDecode : Obligations.WorkedEncodingsDecode := by
  unfold Obligations.WorkedEncodingsDecode
  refine ⟨fun p hp => ?_, fun s => ?_, by decide⟩
  · have hworked : encode p.1 = p.2 ∧ p.1.wellFormed = true := by
      revert p
      decide
    obtain ⟨hword, hw⟩ := hworked
    exact ⟨hword, hword ▸ encodedCommandDecodesToItself p.1 hw⟩
  · rcases execMakekey_cases 15 16 s with ⟨-, e⟩ | ⟨hk, -⟩ | ⟨hk, -⟩
    · exact e
    · exact absurd hk (by decide)
    · exact absurd hk (by decide)

end Sys2Proof.Machine
end

section
/-! PROOF. The facts the statements about 40_datapath.md rest on: `mul` is linear in each factor, so its laws and those of
the column transforms hold once they hold bit by bit; the field inverse, read off the S-box; what each transform puts in a
column; and the bytes of a rotated word. -/

namespace Sys2Proof.Machine

/-! ### Multiplication in GF(2^8) (40_datapath.md R111, R112) -/

/-- Adding z once for each of two flags is adding it once for their `xor`: the form of both steps of the loop of R111. -/
theorem ite_xor_distrib {w : Nat} (p q : Bool) (x y z : BitVec w) :
    (if p ^^ q then x ^^^ y ^^^ z else x ^^^ y) = (if p then x ^^^ z else x) ^^^ (if q then y ^^^ z else y) := by
  cases p
  · cases q
    · rfl
    · exact BitVec.xor_assoc x y z
  · cases q
    · change x ^^^ y ^^^ z = x ^^^ z ^^^ y
      ac_rfl
    · calc
        x ^^^ y = x ^^^ y ^^^ (z ^^^ z) := by rw [BitVec.xor_self, BitVec.xor_zero]
        _ = x ^^^ z ^^^ (y ^^^ z) := by ac_rfl

/-- The loop of R111 is linear in its second factor, taken together with the accumulator. -/
theorem mulLoop_xor_right (n : Nat) (acc acc' : Byte) (t : BitVec 9) (u u' : Byte) :
    mulLoop n (acc ^^^ acc') t (u ^^^ u') = mulLoop n acc t u ^^^ mulLoop n acc' t u' := by
  induction n generalizing acc acc' t u u' with
  | zero => rfl
  | succ n ih =>
    simp only [mulLoop, BitVec.getLsbD_xor, BitVec.ushiftRight_xor_distrib]
    rw [ite_xor_distrib, ih]

/-- The loop of R111 is linear in its first factor, taken together with the accumulator. -/
theorem mulLoop_xor_left (n : Nat) (acc acc' : Byte) (t t' : BitVec 9) (u : Byte) :
    mulLoop n (acc ^^^ acc') (t ^^^ t') u = mulLoop n acc t u ^^^ mulLoop n acc' t' u := by
  induction n generalizing acc acc' t t' u with
  | zero => rfl
  | succ n ih =>
    simp only [mulLoop, BitVec.shiftLeft_xor_distrib, BitVec.getLsbD_xor]
    rw [ite_xor_distrib, ← ih]
    congr 1
    cases u.getLsbD 0
    · rfl
    · simp only [BitVec.extractLsb'_xor, if_true]
      ac_rfl

/-- `mul` distributes over `xor` on the right. -/
theorem mul_xor (a b c : Byte) : mul a (b ^^^ c) = mul a b ^^^ mul a c :=
  mulLoop_xor_right 8 0 0 (a.setWidth 9) b c

/-- `mul` distributes over `xor` on the left. -/
theorem xor_mul (a b c : Byte) : mul (a ^^^ b) c = mul a c ^^^ mul b c :=
  (congrArg (mulLoop 8 0 · c) BitVec.setWidth_xor).trans (mulLoop_xor_left 8 0 0 (a.setWidth 9) (b.setWidth 9) c)

/-- A byte is the `xor` of its bits. -/
theorem xor_bits : ∀ a : Byte, (List.range 8).foldr (fun i b => (a &&& BitVec.twoPow 8 i) ^^^ b) 0 = a := by
  decide +kernel

/-- A property of bytes that `xor` keeps holds of every byte if it holds of the eight with one bit set. -/
theorem byte_induction {P : Byte → Prop} (xor : ∀ a b, P a → P b → P (a ^^^ b)) (bit : ∀ i < 8, P (BitVec.twoPow 8 i))
    (a : Byte) : P a := by
  have zero : P 0 := by simpa using xor _ _ (bit 0 (by decide)) (bit 0 (by decide))
  rw [← xor_bits a]
  refine List.foldrRecOn _ _ zero fun b hb i hi => xor _ _ ?_ hb
  rw [BitVec.and_twoPow]
  split
  · exact bit i (List.mem_range.1 hi)
  · exact zero

/-- The 64 products of two bits commute. -/
theorem mul_comm_bits : ∀ i < 8, ∀ j < 8,
    mul (BitVec.twoPow 8 i) (BitVec.twoPow 8 j) = mul (BitVec.twoPow 8 j) (BitVec.twoPow 8 i) := by
  decide +kernel

/-- The 512 products of three bits associate. -/
theorem mul_assoc_bits : ∀ i < 8, ∀ j < 8, ∀ k < 8,
    mul (mul (BitVec.twoPow 8 i) (BitVec.twoPow 8 j)) (BitVec.twoPow 8 k) =
      mul (BitVec.twoPow 8 i) (mul (BitVec.twoPow 8 j) (BitVec.twoPow 8 k)) := by
  decide +kernel

theorem one_mul_bits : ∀ i < 8, mul 1 (BitVec.twoPow 8 i) = BitVec.twoPow 8 i := by decide +kernel

protected theorem mul_comm (a b : Byte) : mul a b = mul b a := by
  induction a using byte_induction with
  | xor x y hx hy => rw [xor_mul, mul_xor, hx, hy]
  | bit i hi =>
    induction b using byte_induction with
    | xor x y hx hy => rw [xor_mul, mul_xor, hx, hy]
    | bit j hj => exact mul_comm_bits i hi j hj

protected theorem mul_assoc (a b c : Byte) : mul (mul a b) c = mul a (mul b c) := by
  induction a using byte_induction with
  | xor x y hx hy => rw [xor_mul, xor_mul, xor_mul, hx, hy]
  | bit i hi =>
    induction b using byte_induction with
    | xor x y hx hy => rw [mul_xor, xor_mul, xor_mul, mul_xor, hx, hy]
    | bit j hj =>
      induction c using byte_induction with
      | xor x y hx hy => rw [mul_xor, mul_xor, mul_xor, hx, hy]
      | bit k hk => exact mul_assoc_bits i hi j hj k hk

protected theorem zero_mul (x : Byte) : mul 0 x = 0 := by
  simpa using xor_mul 0 0 x

protected theorem one_mul (x : Byte) : mul 1 x = x := by
  induction x using byte_induction with
  | xor a b ha hb => rw [mul_xor, ha, hb]
  | bit i hi => exact one_mul_bits i hi

/-- An inverse is unique (40_datapath.md R112). -/
theorem eq_of_mul_eq_one {x y z : Byte} (hy : mul x y = 1) (hz : mul x z = 1) : z = y :=
  calc
    z = mul (mul x y) z := by rw [hy, Machine.one_mul]
    _ = mul y (mul x z) := by rw [Machine.mul_comm x y, Machine.mul_assoc]
    _ = y := by rw [hz, Machine.mul_comm, Machine.one_mul]

/-! ### The S-box and the field inverse (40_datapath.md R114 to R117) -/

/-- The byte that the affine map of 40_datapath.md R115 sends to b. -/
def affinePreimage (b : Byte) : Byte := b.rotateLeft 1 ^^^ b.rotateLeft 3 ^^^ b.rotateLeft 6 ^^^ 0x05

theorem sboxAffine_affinePreimage : ∀ b, sboxAffine (affinePreimage b) = b := by decide +kernel

/-- The S-box holds the field inverses: taking the affine map off `S[x]` leaves the inverse of x. -/
theorem mul_affinePreimage_sbox : ∀ x : Byte, x ≠ 0 → mul x (affinePreimage (sbox x)) = 1 := by decide +kernel

/-- The table Si is the inverse of the table S (40_datapath.md R116). -/
@[simp] theorem invSbox_sbox : ∀ x, invSbox (sbox x) = x := by decide +kernel

/-- A left inverse of a map of the 256 bytes to themselves is its right inverse. -/
@[simp] theorem sbox_invSbox (x : Byte) : sbox (invSbox x) = x :=
  Function.LeftInverse.rightInverse_of_card_le invSbox_sbox le_rfl x

/-- S has no fixed point and no opposite fixed point (40_datapath.md R117). -/
theorem sbox_ne : ∀ x : Byte, sbox x ≠ x ∧ sbox x ≠ x ^^^ 0xFF := by decide +kernel

/-! ### Columns mixed (40_datapath.md R124 to R126) -/

/-- The column with byte b in row r and 0 in the other rows. -/
def Column.single (r : Nat) (b : Byte) : Column :=
  ⟨if r = 0 then b else 0, if r = 1 then b else 0, if r = 2 then b else 0, if r = 3 then b else 0⟩

/-- Bytes at one row add as the columns do. -/
theorem Column.single_xor (r : Nat) (a b : Byte) : single r (a ^^^ b) = (single r a).xor (single r b) := by
  simp only [single, Column.xor, Column.mk.injEq]
  refine ⟨?_, ?_, ?_, ?_⟩ <;> (split <;> simp)

/-- A column is the `xor` of its rows. -/
theorem Column.xor_rows (c : Column) :
    (((single 0 c.a0).xor (single 1 c.a1)).xor (single 2 c.a2)).xor (single 3 c.a3) = c := by
  simp [single, Column.xor]

/-- A property of columns that `xor` keeps holds of every column if it holds of the 32 with one bit set. -/
theorem Column.xor_induction {P : Column → Prop} (xor : ∀ c d, P c → P d → P (c.xor d))
    (bit : ∀ r < 4, ∀ i < 8, P (single r (BitVec.twoPow 8 i))) (c : Column) : P c := by
  have row (r : Nat) (hr : r < 4) (b : Byte) : P (single r b) := by
    induction b using byte_induction with
    | xor a b ha hb => exact single_xor r a b ▸ xor _ _ ha hb
    | bit i hi => exact bit r hr i hi
  rw [← c.xor_rows]
  exact xor _ _ (xor _ _ (xor _ _ (row 0 (by decide) _) (row 1 (by decide) _)) (row 2 (by decide) _)) (row 3 (by decide) _)

/-- MixColumns is linear (40_datapath.md R126). -/
theorem mixColumn_xor (c d : Column) : mixColumn (c.xor d) = (mixColumn c).xor (mixColumn d) := by
  simp only [mixColumn, Column.xor, mul_xor, Column.mk.injEq]
  refine ⟨?_, ?_, ?_, ?_⟩ <;> ac_rfl

/-- InvMixColumns is linear (40_datapath.md R126). -/
theorem invMixColumn_xor (c d : Column) : invMixColumn (c.xor d) = (invMixColumn c).xor (invMixColumn d) := by
  simp only [invMixColumn, Column.xor, mul_xor, Column.mk.injEq]
  refine ⟨?_, ?_, ?_, ?_⟩ <;> ac_rfl

/-- The column transforms invert each other on the 32 columns of one bit. -/
theorem mixColumn_inverse_bits : ∀ r < 4, ∀ i < 8,
    invMixColumn (mixColumn (.single r (BitVec.twoPow 8 i))) = .single r (BitVec.twoPow 8 i) ∧
    mixColumn (invMixColumn (.single r (BitVec.twoPow 8 i))) = .single r (BitVec.twoPow 8 i) := by
  decide +kernel

@[simp] theorem invMixColumn_mixColumn (c : Column) : invMixColumn (mixColumn c) = c := by
  induction c using Column.xor_induction with
  | xor c d hc hd => rw [mixColumn_xor, invMixColumn_xor, hc, hd]
  | bit r hr i hi => exact (mixColumn_inverse_bits r hr i hi).1

@[simp] theorem mixColumn_invMixColumn (c : Column) : mixColumn (invMixColumn c) = c := by
  induction c using Column.xor_induction with
  | xor c d hc hd => rw [invMixColumn_xor, mixColumn_xor, hc, hd]
  | bit r hr i hi => exact (mixColumn_inverse_bits r hr i hi).2

@[simp] theorem invMixColumns_mixColumns (s : CipherState) : invMixColumns (mixColumns s) = s := by
  simp [mixColumns, invMixColumns, Function.comp_def]

@[simp] theorem mixColumns_invMixColumns (s : CipherState) : mixColumns (invMixColumns s) = s := by
  simp [mixColumns, invMixColumns, Function.comp_def]

/-! ### The columns of a state -/

/-- Two states of as many columns are equal when their columns are. -/
theorem CipherState.ext_column {s t : CipherState} (hlen : s.length = t.length)
    (h : ∀ c < s.length, s.column c = t.column c) : s = t :=
  List.ext_getElem hlen fun c hs ht => by rw [← column_eq s hs, ← column_eq t ht, h c hs]

theorem loadState_column {nb c : Nat} (bs : List Byte) (h : c < nb) : (loadState nb bs).column c = bytesColumn bs c := by
  rw [column_eq _ (by simpa using h)]
  simp [loadState]

theorem subBytes_column {s : CipherState} {c : Nat} (h : c < s.length) :
    (subBytes s).column c = (s.column c).map sbox := by
  rw [column_eq _ (by simpa using h), column_eq s h]
  simp [subBytes]

theorem invSubBytes_column {s : CipherState} {c : Nat} (h : c < s.length) :
    (invSubBytes s).column c = (s.column c).map invSbox := by
  rw [column_eq _ (by simpa using h), column_eq s h]
  simp [invSubBytes]

theorem mixColumns_column {s : CipherState} {c : Nat} (h : c < s.length) :
    (mixColumns s).column c = mixColumn (s.column c) := by
  rw [column_eq _ (by simpa using h), column_eq s h]
  simp [mixColumns]

/-- AddRoundKey adds word c of the round key to column c (40_datapath.md R127). -/
theorem addRoundKey_column {s : CipherState} {k : List Word} {c : Nat} (hs : c < s.length) (hk : c < k.length) :
    ((addRoundKey s k).column c).word = (s.column c).word ^^^ k.getD c 0 := by
  rw [column_eq _ (by simpa using ⟨hs, hk⟩), column_eq s hs]
  simp [addRoundKey, hk]

theorem shiftRows_column {nb c : Nat} (s : CipherState) (h : c < nb) : (shiftRows nb s).column c =
    ⟨(s.column ((c + shiftOffset nb 0) % nb)).a0, (s.column ((c + shiftOffset nb 1) % nb)).a1,
     (s.column ((c + shiftOffset nb 2) % nb)).a2, (s.column ((c + shiftOffset nb 3) % nb)).a3⟩ := by
  rw [column_eq _ (by simpa using h)]
  simp [shiftRows]

theorem invShiftRows_column {nb c : Nat} (s : CipherState) (h : c < nb) : (invShiftRows nb s).column c =
    ⟨(s.column ((c + nb - shiftOffset nb 0) % nb)).a0, (s.column ((c + nb - shiftOffset nb 1) % nb)).a1,
     (s.column ((c + nb - shiftOffset nb 2) % nb)).a2, (s.column ((c + nb - shiftOffset nb 3) % nb)).a3⟩ := by
  rw [column_eq _ (by simpa using h)]
  simp [invShiftRows]

/-! ### Rows shifted (40_datapath.md R121 to R123) -/

/-- No row is shifted by more than four columns (40_datapath.md R121). -/
theorem shiftOffset_le (nb r : Nat) : shiftOffset nb r ≤ 4 := by
  unfold shiftOffset
  split
  · omega
  · omega
  · split <;> omega
  · split <;> omega

/-- The column InvShiftRows reads for row r of column c is the one whose byte ShiftRows takes from column c. -/
theorem shiftOffset_back_forth {nb c : Nat} (h4 : 4 ≤ nb) (hc : c < nb) (r : Nat) :
    ((c + nb - shiftOffset nb r) % nb + shiftOffset nb r) % nb = c := by
  have ho : shiftOffset nb r ≤ nb := (shiftOffset_le nb r).trans h4
  rw [Nat.mod_add_mod, show c + nb - shiftOffset nb r + shiftOffset nb r = c + nb by omega, Nat.add_mod_right,
    Nat.mod_eq_of_lt hc]

/-- The column ShiftRows reads for row r of column c is the one whose byte InvShiftRows takes from column c. -/
theorem shiftOffset_forth_back {nb c : Nat} (h4 : 4 ≤ nb) (hc : c < nb) (r : Nat) :
    ((c + shiftOffset nb r) % nb + nb - shiftOffset nb r) % nb = c := by
  have ho : shiftOffset nb r ≤ nb := (shiftOffset_le nb r).trans h4
  rw [Nat.add_sub_assoc ho, Nat.mod_add_mod, show c + shiftOffset nb r + (nb - shiftOffset nb r) = c + nb by omega,
    Nat.add_mod_right, Nat.mod_eq_of_lt hc]

/-- InvShiftRows undoes ShiftRows (40_datapath.md R123). -/
theorem invShiftRows_shiftRows {nb : Nat} {s : CipherState} (h4 : 4 ≤ nb) (hs : s.length = nb) :
    invShiftRows nb (shiftRows nb s) = s := by
  refine CipherState.ext_column (by simp [hs]) fun c hc => ?_
  have hc : c < nb := by simpa using hc
  have hmod (n : Nat) : n % nb < nb := Nat.mod_lt n (by omega)
  simp only [invShiftRows_column _ hc, shiftRows_column _ (hmod _), shiftOffset_back_forth h4 hc]

/-- ShiftRows undoes InvShiftRows (40_datapath.md R123). -/
theorem shiftRows_invShiftRows {nb : Nat} {s : CipherState} (h4 : 4 ≤ nb) (hs : s.length = nb) :
    shiftRows nb (invShiftRows nb s) = s := by
  refine CipherState.ext_column (by simp [hs]) fun c hc => ?_
  have hc : c < nb := by simpa using hc
  have hmod (n : Nat) : n % nb < nb := Nat.mod_lt n (by omega)
  simp only [shiftRows_column _ hc, invShiftRows_column _ (hmod _), shiftOffset_forth_back h4 hc]

/-- SubBytes and ShiftRows together, in one column (42_block.md R171). -/
theorem shiftRows_subBytes_column {nb c : Nat} {s : CipherState} (hs : s.length = nb) (hc : c < nb) :
    (shiftRows nb (subBytes s)).column c = ((shiftRows nb s).column c).map sbox := by
  have hmod (n : Nat) : n % nb < s.length := hs ▸ Nat.mod_lt n (by omega)
  simp only [shiftRows_column _ hc, subBytes_column (hmod _), Column.map]

/-- A substitution of bytes and a movement of bytes commute (42_block.md R173). -/
theorem invSubBytes_invShiftRows {nb : Nat} {s : CipherState} (hs : s.length = nb) :
    invSubBytes (invShiftRows nb s) = invShiftRows nb (invSubBytes s) := by
  refine CipherState.ext_column (by simp) fun c hc => ?_
  have hc : c < nb := by simpa using hc
  have hmod (n : Nat) : n % nb < s.length := hs ▸ Nat.mod_lt n (by omega)
  rw [invSubBytes_column (by simpa using hc)]
  simp only [invShiftRows_column _ hc, invSubBytes_column (hmod _), Column.map]

/-! ### Blocks loaded and stored (40_datapath.md R119) -/

/-- The first four bytes of a block are the first column of the loaded state. -/
theorem loadState_cons (nb : Nat) (c : Column) (bs : List Byte) :
    loadState (nb + 1) (c.a0 :: c.a1 :: c.a2 :: c.a3 :: bs) = c :: loadState nb bs := by
  simp only [loadState, List.range_succ_eq_map, List.map_cons, List.map_map]
  rfl

theorem storeState_cons (c : Column) (s : CipherState) :
    storeState (c :: s) = c.a0 :: c.a1 :: c.a2 :: c.a3 :: storeState s := rfl

/-- A stored state loads back. -/
@[simp] theorem loadState_storeState (s : CipherState) : loadState s.length (storeState s) = s := by
  induction s with
  | nil => rfl
  | cons c s ih => rw [storeState_cons, List.length_cons, loadState_cons, ih]

/-- A loaded block stores back. -/
theorem storeState_loadState {nb : Nat} {bs : List Byte} (h : bs.length = 4 * nb) : storeState (loadState nb bs) = bs := by
  induction nb generalizing bs with
  | zero => rw [List.length_eq_zero_iff.1 h]; rfl
  | succ nb ih =>
    match bs, h with
    | b0 :: b1 :: b2 :: b3 :: bs, h =>
      rw [loadState_cons nb ⟨b0, b1, b2, b3⟩ bs, storeState_cons, ih (by simpa [Nat.mul_succ] using h)]

/-! ### The round tables (40_datapath.md R129) -/

/-- Packed columns add byte by byte. -/
theorem b2w_xor (a0 a1 a2 a3 b0 b1 b2 b3 : Byte) :
    b2w a0 a1 a2 a3 ^^^ b2w b0 b1 b2 b3 = b2w (a0 ^^^ b0) (a1 ^^^ b1) (a2 ^^^ b2) (a3 ^^^ b3) := by
  unfold b2w
  rw [BitVec.xor_append (x₁ := a0 ++ a1 ++ a2), BitVec.xor_append (x₁ := a0 ++ a1), BitVec.xor_append]

/-- Rotating a packed column right by k bytes moves its rows k places down. -/
theorem b2w_rotateRight (b0 b1 b2 b3 : Byte) :
    (b2w b0 b1 b2 b3).rotateRight (8 * 0) = b2w b0 b1 b2 b3 ∧ (b2w b0 b1 b2 b3).rotateRight (8 * 1) = b2w b3 b0 b1 b2 ∧
    (b2w b0 b1 b2 b3).rotateRight (8 * 2) = b2w b2 b3 b0 b1 ∧ (b2w b0 b1 b2 b3).rotateRight (8 * 3) = b2w b1 b2 b3 b0 := by
  refine ⟨?_, ?_, ?_, ?_⟩ <;>
  · apply BitVec.eq_of_getLsbD_eq
    intro i hi
    simp only [BitVec.getLsbD_rotateRight, b2w_getLsbD]
    grind

/-- `Te0..Te3` hold each row's part of a substituted and mixed column. -/
theorem mixColumn_sbox_word (c : Column) : (mixColumn (c.map sbox)).word =
    te 0 c.a0 ^^^ te 1 c.a1 ^^^ te 2 c.a2 ^^^ te 3 c.a3 := by
  simp only [te, te0, b2w_rotateRight, b2w_xor]
  rfl

/-- `Td0..Td3` hold each row's part of an inversely substituted and mixed column. -/
theorem invMixColumn_invSbox_word (c : Column) : (invMixColumn (c.map invSbox)).word =
    td 0 c.a0 ^^^ td 1 c.a1 ^^^ td 2 c.a2 ^^^ td 3 c.a3 := by
  simp only [td, td0, b2w_rotateRight, b2w_xor]
  rfl

end Sys2Proof.Machine
end

section
/-! PROOF. The statements about 40_datapath.md. -/

namespace Sys2Proof.Machine

/-- Settles O49: linearity in each factor brings the laws down to the bits, and the S-box holds the inverses. -/
theorem mulIsFieldMultiplication : Obligations.MulIsFieldMultiplication := by
  unfold Obligations.MulIsFieldMultiplication
  exact ⟨Machine.mul_comm, Machine.mul_assoc, mul_xor, Machine.zero_mul, Machine.one_mul,
    fun x hx => ⟨_, mul_affinePreimage_sbox x hx, fun _ => eq_of_mul_eq_one (mul_affinePreimage_sbox x hx)⟩⟩

/-- Settles O53: the column transforms are linear, and invert each other on the columns of one bit. -/
theorem mixColumnsInvertible : Obligations.MixColumnsInvertible := by
  unfold Obligations.MixColumnsInvertible
  exact ⟨fun s => ⟨invMixColumns_mixColumns s, mixColumns_invMixColumns s⟩,
    fun c d => ⟨mixColumn_xor c d, invMixColumn_xor c d⟩⟩

/-- Settles O54: no row is shifted by more than NB columns, so its shifts cancel modulo NB. -/
theorem shiftRowsInvertible : Obligations.ShiftRowsInvertible := by
  unfold Obligations.ShiftRowsInvertible
  intro nb s hnb hs
  have h4 : 4 ≤ nb := (by decide : ∀ n ∈ [4, 6, 8], 4 ≤ n) nb hnb
  exact ⟨invShiftRows_shiftRows h4 hs, shiftRows_invShiftRows h4 hs, invSubBytes_invShiftRows hs⟩

/-- Settles O55: a column of the loaded state is four bytes of the block, and storing takes off four bytes a column. -/
theorem stateHoldsBlockByColumns : Obligations.StateHoldsBlockByColumns := by
  unfold Obligations.StateHoldsBlockByColumns
  intro nb bs hbs
  refine ⟨fun c hc => ?_, fun c hc => ?_, storeState_loadState hbs, fun s hs => hs ▸ loadState_storeState s⟩
  · rw [loadState_column bs hc]
    exact ⟨rfl, rfl, rfl, rfl⟩
  · rw [loadState_column bs hc]
    rfl

/-- Settles O56: a column of a round is the mixed column of the substituted bytes the shift brings together, and each
table entry is one byte's part of it. -/
theorem roundTablesComputeRound : Obligations.RoundTablesComputeRound := by
  unfold Obligations.RoundTablesComputeRound
  refine ⟨fun nb s k c _ hs hk hc => ?_, invMixColumn_invSbox_word⟩
  have hrow0 : (c + shiftOffset nb 0) % nb = c := Nat.mod_eq_of_lt hc
  rw [encryptRound, addRoundKey_column (by simpa using hc) (hk ▸ hc), mixColumns_column (by simpa using hc),
    shiftRows_subBytes_column hs hc, mixColumn_sbox_word, shiftRows_column s hc, hrow0, tableRoundColumn]

/-- Settles O22: each row of the table by evaluation; the largest schedule is (14 + 1) * 8 words. -/
theorem roundCountTable : Obligations.RoundCountTable := by
  unfold Obligations.RoundCountTable
  decide

/-- Settles O50: the S-box holds the inverses under the affine map, and the inverse is unique. -/
theorem sboxIsAffineOfInverse : Obligations.SboxIsAffineOfInverse := by
  unfold Obligations.SboxIsAffineOfInverse
  refine ⟨by decide, fun x b hb => ?_⟩
  have hx : x ≠ 0 := by
    rintro rfl
    rw [Machine.zero_mul] at hb
    exact absurd hb (by decide)
  rw [eq_of_mul_eq_one (mul_affinePreimage_sbox x hx) hb, sboxAffine_affinePreimage]

/-- Settles O51: Si inverts S entry by entry, so S inverts Si on finitely many bytes; the fixed points by evaluation. -/
theorem inverseSboxInverts : Obligations.InverseSboxInverts := by
  unfold Obligations.InverseSboxInverts
  exact fun x => ⟨invSbox_sbox x, sbox_invSbox x, sbox_ne x⟩

/-- Settles O52: each of the 29 doublings by evaluation. -/
theorem rconDoubles : Obligations.RconDoubles := by
  unfold Obligations.RconDoubles
  exact ⟨rfl, by decide +kernel⟩

end Sys2Proof.Machine
end

section
/-! PROOF. The facts the statements about 41_makekey.md rest on: the sizes that MAKEKEY supports, the words of the
expanded key and of the inverted schedule, and the session key of supported sizes word by word. -/

namespace Sys2Proof.Machine

/-! ### Sizes (00_scope.md R9; 40_datapath.md R131) -/

/-- A supported size in words. -/
theorem SupportedSize.div_four {n : Nat} (h : SupportedSize n) : n / 4 ∈ [4, 6, 8] :=
  (by decide : ∀ n ∈ supportedSizes, n / 4 ∈ [4, 6, 8]) n h

/-- The bounds of a size in words. -/
theorem wordSize_bounds {n : Nat} (h : n ∈ [4, 6, 8]) : 4 ≤ n ∧ n ≤ 8 :=
  (by decide : ∀ n ∈ [4, 6, 8], 4 ≤ n ∧ n ≤ 8) n h

/-- The largest schedule fills the store (00_scope.md R9). -/
theorem schedule_fits {nk nb : Nat} (hk : nk ∈ [4, 6, 8]) (hb : nb ∈ [4, 6, 8]) :
    (roundCount nk nb + 1) * nb ≤ 120 := by
  obtain ⟨-, -, -, -, -, -, -, -, -, hfit⟩ := roundCountTable
  exact hfit nk hk nb hb

/-- The user key is no longer than the schedule. -/
theorem key_fits {nk nb : Nat} (hb : nb ∈ [4, 6, 8]) : nk ≤ (roundCount nk nb + 1) * nb := by
  have hpos : 0 < nb := by have := wordSize_bounds hb; omega
  calc nk ≤ roundCount nk nb + 1 := by unfold roundCount; omega
    _ ≤ (roundCount nk nb + 1) * nb := Nat.le_mul_of_pos_right _ hpos

/-- Word c of round key r lies inside a schedule of n round keys (10_state.md R36). -/
theorem flatIndex_lt {n nb r c : Nat} (hr : r < n) (hc : c < nb) : r * nb + c < n * nb :=
  calc r * nb + c < r * nb + nb := Nat.add_lt_add_left hc _
    _ = (r + 1) * nb := (Nat.succ_mul r nb).symm
    _ ≤ n * nb := Nat.mul_le_mul_right nb hr

/-! ### Register files and key bytes -/

/-- The same as `wordsOf_getElem`, through the read of one word. -/
theorem wordAt_wordsOf {n i : Nat} (ws : List Word) (h : i < n) : wordAt (wordsOf n ws) i = ws.getD i 0 := by
  rw [wordAt_eq _ h, wordsOf_getElem]

/-- Above the list's end a register file filled from it holds 0 (10_state.md R36). -/
theorem wordAt_wordsOf_eq_zero {n i : Nat} {ws : List Word} (hi : i < n) (h : ws.length ≤ i) :
    wordAt (wordsOf n ws) i = 0 := by
  rw [wordAt_wordsOf ws hi, List.getD_eq_default _ _ h]

/-- Word i of a buffer's first n bytes is its bytes 4i to 4i+3, packed (41_makekey.md R152). -/
theorem bytesWord_bufferBytes (buf : Vector Word 8) {n i : Nat} (h : i < n / 4) :
    bytesWord (bufferBytes buf n) i = b2w (bufferByte buf (4 * i)) (bufferByte buf (4 * i + 1))
      (bufferByte buf (4 * i + 2)) (bufferByte buf (4 * i + 3)) := by
  simp only [bytesWord, Column.word, bytesColumn]
  rw [bufferBytes_getD buf (by omega), bufferBytes_getD buf (by omega), bufferBytes_getD buf (by omega),
    bufferBytes_getD buf (by omega)]

/-- Buffers that agree on their first n bytes have the same first n bytes (10_state.md R23). -/
theorem bufferBytes_congr {buf buf' : Vector Word 8} {n : Nat} (h : ∀ j < n, bufferByte buf j = bufferByte buf' j) :
    bufferBytes buf n = bufferBytes buf' n :=
  List.map_congr_left fun j hj => h j (List.mem_range.1 hj)

/-! ### The expansion recurrence (41_makekey.md R153) -/

/-- What the recurrence gives for word i of a schedule W, by flat index: `nextWord` without the list of prior words. -/
def scheduleWord (nk : Nat) (W : Nat → Word) (i : Nat) : Word :=
  W (i - nk) ^^^
    (if i % nk = 0 then subWord (rotWord (W (i - 1))) ^^^ (rcon (i / nk - 1) ++ (0 : BitVec 24))
     else if nk = 8 ∧ i % nk = 4 then subWord (W (i - 1))
     else W (i - 1))

/-- The first n words of a schedule follow the recurrence, from word NK on. -/
def FollowsRecurrence (nk n : Nat) (W : Nat → Word) : Prop :=
  ∀ i, nk ≤ i → i < n → W i = scheduleWord nk W i

/-- `nextWord` computes the recurrence at the end of the words it is given. -/
theorem nextWord_reverse {nk : Nat} (hpos : 0 < nk) {ws : List Word} (hlen : nk ≤ ws.length) :
    nextWord nk ws.length ws.reverse = scheduleWord nk (ws.getD · 0) ws.length := by
  have hprev : ws.reverse.getD 0 0 = ws.getD (ws.length - 1) 0 := by
    rw [List.getD_reverse _ (by omega), Nat.sub_zero]
  have hback : ws.reverse.getD (nk - 1) 0 = ws.getD (ws.length - nk) 0 := by
    rw [List.getD_reverse _ (by omega), show ws.length - 1 - (nk - 1) = ws.length - nk by omega]
  rw [nextWord, hprev, hback, scheduleWord]

/-- The recurrence at word i reads words below i only. -/
theorem scheduleWord_congr {nk i : Nat} {W V : Nat → Word} (hpos : 0 < nk) (hi : nk ≤ i) (h : ∀ j < i, W j = V j) :
    scheduleWord nk W i = scheduleWord nk V i := by
  rw [scheduleWord, scheduleWord, h (i - nk) (by omega), h (i - 1) (by omega)]

/-- To follow the recurrence is about the first n words alone. -/
theorem FollowsRecurrence.congr {nk n : Nat} {W V : Nat → Word} (hW : FollowsRecurrence nk n W) (hpos : 0 < nk)
    (h : ∀ j < n, V j = W j) : FollowsRecurrence nk n V := fun i hi hn =>
  calc V i = W i := h i hn
    _ = scheduleWord nk W i := hW i hi hn
    _ = scheduleWord nk V i := (scheduleWord_congr hpos hi fun j hj => h j (hj.trans hn)).symm

/-- A word more, as `nextWord` gives it, still follows the recurrence. -/
theorem FollowsRecurrence.concat_nextWord {nk : Nat} (hpos : 0 < nk) {ws : List Word} (hlen : nk ≤ ws.length)
    (h : FollowsRecurrence nk ws.length (ws.getD · 0)) :
    FollowsRecurrence nk (ws.length + 1) ((ws ++ [nextWord nk ws.length ws.reverse]).getD · 0) := by
  have hold (x : Word) : ∀ j < ws.length, (ws ++ [x]).getD j 0 = ws.getD j 0 := fun j hj =>
    List.getD_append ws [x] 0 j hj
  intro i hi hn
  rcases Nat.lt_succ_iff_lt_or_eq.1 hn with hlt | rfl
  · exact h.congr hpos (hold _) i hi hlt
  · calc (ws ++ [nextWord nk ws.length ws.reverse]).getD ws.length 0
        = nextWord nk ws.length ws.reverse := by simp
      _ = scheduleWord nk (ws.getD · 0) ws.length := nextWord_reverse hpos hlen
      _ = _ := (scheduleWord_congr hpos hi (hold _)).symm

/-- The loop extends words that follow the recurrence to more of them. -/
theorem expandLoop_followsRecurrence {nk : Nat} (hpos : 0 < nk) (n : Nat) {ws : List Word} (hlen : nk ≤ ws.length)
    (h : FollowsRecurrence nk ws.length (ws.getD · 0)) :
    FollowsRecurrence nk (ws.length + n) ((expandLoop nk n ws.length ws.reverse).reverse.getD · 0) := by
  induction n generalizing ws with
  | zero => simpa [expandLoop] using h
  | succ n ih =>
    have hnext := ih (ws := ws ++ [nextWord nk ws.length ws.reverse]) (by simp; omega)
      (by simpa using h.concat_nextWord hpos hlen)
    simpa [expandLoop, Nat.add_comm n, Nat.add_assoc] using hnext

/-- The loop keeps the words it starts from. -/
theorem suffix_expandLoop (nk n i : Nat) (prior : List Word) : prior <:+ expandLoop nk n i prior := by
  induction n generalizing i prior with
  | zero => exact List.suffix_refl prior
  | succ n ih => exact (List.suffix_cons _ prior).trans (ih (i + 1) _)

@[simp] theorem keyWords_length (key : List Byte) (nk : Nat) : (keyWords key nk).length = nk := by simp [keyWords]

/-- The schedule starts with the user key's words (41_makekey.md R152). -/
theorem expand_getD_of_lt (key : List Byte) {nk i : Nat} (nb nr : Nat) (h : i < nk) :
    (expand key nk nb nr).getD i 0 = bytesWord key i := by
  have hprefix : keyWords key nk <+: expand key nk nb nr := by
    rw [← List.reverse_suffix, expand, List.reverse_reverse]
    exact suffix_expandLoop ..
  obtain ⟨rest, hrest⟩ := hprefix
  rw [← hrest, List.getD_append _ _ _ _ (by simpa using h)]
  simp [keyWords, h]

/-- Every later word of the schedule follows the recurrence. -/
theorem expand_followsRecurrence (key : List Byte) {nk nb nr : Nat} (hpos : 0 < nk) (hlen : nk ≤ (nr + 1) * nb) :
    FollowsRecurrence nk ((nr + 1) * nb) ((expand key nk nb nr).getD · 0) := by
  have hkey : FollowsRecurrence nk (keyWords key nk).length ((keyWords key nk).getD · 0) := fun i hi hn =>
    absurd hi (by simpa using hn)
  simpa [expand, hlen] using expandLoop_followsRecurrence hpos ((nr + 1) * nb - nk) (by simp) hkey

/-! ### The inverted schedule (41_makekey.md R155) -/

/-- Word c of round key r of the decryption schedule. -/
def invertedWord (ek : Vector Word 120) (nr nb r c : Nat) : Word :=
  if r = 0 ∨ r = nr then wordAt ek ((nr - r) * nb + c) else imcw (wordAt ek ((nr - r) * nb + c))

/-- The decryption schedule lists its words round key by round key. -/
theorem invertSchedule_eq (ek : Vector Word 120) (nr nb : Nat) : invertSchedule ek nr nb =
    (List.range (nr + 1)).flatMap fun r => (List.range nb).map (invertedWord ek nr nb r) := by
  refine List.flatMap_congr fun r _ => ?_
  by_cases h : r = 0 ∨ r = nr
  · rw [if_pos h, roundKey]
    exact List.map_congr_left fun c _ => (if_pos h).symm
  · rw [if_neg h, roundKey, List.map_map]
    exact List.map_congr_left fun c _ => (if_neg h).symm

/-- `n` rows of `m` words each, one after the other, are n * m words. -/
theorem length_flatMap_rows (g : Nat → Nat → Word) (n m : Nat) :
    ((List.range n).flatMap fun r => (List.range m).map (g r)).length = n * m := by
  simp [List.length_flatMap]

/-- Word c of row r stands at r * m + c. -/
theorem getD_flatMap_rows (g : Nat → Nat → Word) {n m r c : Nat} (hr : r < n) (hc : c < m) :
    ((List.range n).flatMap fun r => (List.range m).map (g r)).getD (r * m + c) 0 = g r c := by
  induction n with
  | zero => omega
  | succ n ih =>
    have hlen := length_flatMap_rows g n m
    rw [List.range_succ, List.flatMap_append, List.flatMap_singleton]
    rcases Nat.lt_succ_iff_lt_or_eq.1 hr with hlt | rfl
    · rw [List.getD_append _ _ _ _ (hlen ▸ flatIndex_lt hlt hc), ih hlt]
    · rw [List.getD_append_right _ _ _ _ (by omega), hlen, Nat.add_sub_cancel_left]
      simp [hc]

/-- The decryption schedule has as many words as the encryption schedule. -/
theorem invertSchedule_length (ek : Vector Word 120) (nr nb : Nat) :
    (invertSchedule ek nr nb).length = (nr + 1) * nb := by
  rw [invertSchedule_eq, length_flatMap_rows]

/-- Word c of round key r of the decryption schedule, at its flat index. -/
theorem invertSchedule_getD (ek : Vector Word 120) {nr nb r c : Nat} (hr : r ≤ nr) (hc : c < nb) :
    (invertSchedule ek nr nb).getD (r * nb + c) 0 = invertedWord ek nr nb r c := by
  rw [invertSchedule_eq, getD_flatMap_rows _ (Nat.lt_succ_of_le hr) hc]

/-! ### The session key of supported sizes -/

section
variable (key : List Byte) {nk nb : Nat} (hk : nk ∈ [4, 6, 8]) (hb : nb ∈ [4, 6, 8])
include hb

/-- Above the schedule both flat files hold 0 (10_state.md R36). -/
theorem makeSessionKey_eq_zero {w : Nat} (hw : (roundCount nk nb + 1) * nb ≤ w) (h120 : w < 120) :
    wordAt (makeSessionKey key nk nb).ek w = 0 ∧ wordAt (makeSessionKey key nk nb).dk w = 0 :=
  ⟨wordAt_wordsOf_eq_zero h120 ((expand_length key (key_fits hb)).trans_le hw),
    wordAt_wordsOf_eq_zero h120 ((invertSchedule_length _ _ _).trans_le hw)⟩

include hk

/-- KINFO holds the sizes and the round count: its fields are wide enough (10_state.md R35). -/
theorem makeSessionKey_kinfo : (makeSessionKey key nk nb).kinfo.nk.toNat = nk ∧
    (makeSessionKey key nk nb).kinfo.nb.toNat = nb ∧ (makeSessionKey key nk nb).kinfo.nr.toNat = roundCount nk nb := by
  obtain ⟨-, hnk⟩ := wordSize_bounds hk
  obtain ⟨-, hnb⟩ := wordSize_bounds hb
  have hnr : roundCount nk nb ≤ 14 := by unfold roundCount; omega
  exact ⟨Nat.mod_eq_of_lt (by omega), Nat.mod_eq_of_lt (by omega), Nat.mod_eq_of_lt (by omega)⟩

/-- EK starts with the user key's words (41_makekey.md R152). -/
theorem makeSessionKey_ek_key {i : Nat} (hi : i < nk) : wordAt (makeSessionKey key nk nb).ek i = bytesWord key i := by
  have h120 : i < 120 := (hi.trans_le (key_fits hb)).trans_le (schedule_fits hk hb)
  exact (wordAt_wordsOf _ h120).trans (expand_getD_of_lt key nb _ hi)

/-- EK follows the recurrence (41_makekey.md R153, R154). -/
theorem makeSessionKey_ek_followsRecurrence :
    FollowsRecurrence nk ((roundCount nk nb + 1) * nb) (wordAt (makeSessionKey key nk nb).ek) := by
  have hpos : 0 < nk := by have := wordSize_bounds hk; omega
  exact (expand_followsRecurrence key hpos (key_fits hb)).congr hpos fun j hj =>
    wordAt_wordsOf _ (hj.trans_le (schedule_fits hk hb))

/-- DK is EK's round keys in reverse order (41_makekey.md R155). -/
theorem makeSessionKey_dk {r c : Nat} (hr : r ≤ roundCount nk nb) (hc : c < nb) :
    wordAt (makeSessionKey key nk nb).dk (r * nb + c) =
      invertedWord (makeSessionKey key nk nb).ek (roundCount nk nb) nb r c :=
  (wordAt_wordsOf _ ((flatIndex_lt (Nat.lt_succ_of_le hr) hc).trans_le (schedule_fits hk hb))).trans
    (invertSchedule_getD _ hr hc)

end

/-- MAKEKEY of supported lengths installs the session key of the key bytes (41_makekey.md R150). -/
theorem exec_makekey_supported {klen blen : Nat} (hk : SupportedSize klen) (hb : SupportedSize blen) (s : State) :
    exec (.makekey klen blen) s =
      .next (complete .none (installKey (makeSessionKey (bufferBytes s.key klen) (klen / 4) (blen / 4)) s)) := by
  rcases execMakekey_cases klen blen s with ⟨h, -⟩ | ⟨-, h, -⟩ | ⟨-, -, e⟩
  · exact absurd hk h
  · exact absurd hb h
  · exact e

/-- The session key held after a MAKEKEY of supported lengths (41_makekey.md R159). -/
theorem exec_makekey_sessionKey {klen blen : Nat} {s t : State} (hk : SupportedSize klen) (hb : SupportedSize blen)
    (h : exec (.makekey klen blen) s = .next t) :
    t.sessionKey = makeSessionKey (bufferBytes s.key klen) (klen / 4) (blen / 4) := by
  rw [exec_makekey_supported hk hb] at h
  rw [← Host.Outcome.next.inj h]
  rfl

end Sys2Proof.Machine
end

section
/-! PROOF. The statements about 41_makekey.md. -/

namespace Sys2Proof.Machine

/-- Settles O20: the installed session key, word by word: the key's words, then the recurrence the loop runs, and the
round keys listed in reverse order. -/
theorem makekeyInstallsSchedule : Obligations.MakekeyInstallsSchedule := by
  unfold Obligations.MakekeyInstallsSchedule
  intro s klen blen hk hb
  have hnk := SupportedSize.div_four hk
  have hnb := SupportedSize.div_four hb
  refine ⟨_, exec_makekey_supported hk hb s, rfl, ?_⟩
  obtain ⟨hkinfoNk, hkinfoNb, hkinfoNr⟩ := makeSessionKey_kinfo (bufferBytes s.key klen) hnk hnb
  refine ⟨hkinfoNk, hkinfoNb, hkinfoNr, fun i hi => ?_, ?_, fun r hr c hc => ?_, fun w hw h120 => ?_⟩
  · exact (makeSessionKey_ek_key _ hnk hnb hi).trans (bytesWord_bufferBytes s.key hi)
  · exact makeSessionKey_ek_followsRecurrence _ hnk hnb
  · exact makeSessionKey_dk _ hnk hnb hr hc
  · exact makeSessionKey_eq_zero _ hnb hw h120

/-- Settles O24: what MAKEKEY installs is computed from the first klen bytes of KEY and the two lengths. -/
theorem sessionKeyDependsOnKeyBytesOnly : Obligations.SessionKeyDependsOnKeyBytesOnly := by
  unfold Obligations.SessionKeyDependsOnKeyBytesOnly
  intro s s' t t' klen blen hk hb hbytes ht ht'
  rw [exec_makekey_sessionKey hk hb ht, exec_makekey_sessionKey hk hb ht', bufferBytes_congr hbytes]

/-- Settles O21: the two error cases of MAKEKEY, the key's length checked first. -/
theorem makekeyBadLengthChangesOnlyErr : Obligations.MakekeyBadLengthChangesOnlyErr := by
  unfold Obligations.MakekeyBadLengthChangesOnlyErr
  intro s klen blen
  rcases execMakekey_cases klen blen s with ⟨hk, e⟩ | ⟨hk, hb, e⟩ | ⟨hk, hb, -⟩
  · exact ⟨fun _ => e, fun hk' => absurd hk' hk⟩
  · exact ⟨fun hk' => absurd hk hk', fun _ _ => e⟩
  · exact ⟨fun hk' => absurd hk hk', fun _ hb' => absurd hb hb'⟩

/-- Settles O23: a schedule is at most 120 words and NK is at least 4, so `i / NK` is at most `119 / 4`; word 116 of the
longest schedule under the shortest key reaches it. -/
theorem rconIndexStaysInTable : Obligations.RconIndexStaysInTable := by
  unfold Obligations.RconIndexStaysInTable
  refine ⟨fun nk hk nb hb i hi _ _ => ?_, 116, by decide⟩
  obtain ⟨h4, -⟩ := wordSize_bounds hk
  have h119 : i ≤ 119 := Nat.le_pred_of_lt (hi.trans_le (schedule_fits hk hb))
  calc i / nk - 1 ≤ 119 / 4 - 1 := Nat.sub_le_sub_right (Nat.div_le_div h119 h4 (by decide)) 1
    _ = 28 := rfl

end Sys2Proof.Machine
end

section
/-! PROOF. The facts the statements about 42_block.md rest on: what ENCRYPT and DECRYPT answer, the bytes of DOUT they
leave, the rounds both ciphers run, those rounds by rows and columns, and that each cipher undoes the other. -/

namespace Sys2Proof.Machine

/-! ### What the two commands answer (42_block.md R170, R172) -/

/-- The block a session key encrypts a block to (42_block.md R170). -/
def SessionKey.encrypt (k : SessionKey) (bs : List Byte) : List Byte :=
  cipher bs k.ek k.kinfo.nr.toNat k.kinfo.nb.toNat

/-- The block a session key decrypts a block to (42_block.md R172). -/
def SessionKey.decrypt (k : SessionKey) (bs : List Byte) : List Byte :=
  invCipher bs k.dk k.kinfo.nr.toNat k.kinfo.nb.toNat

theorem exec_encrypt (blen : Nat) (s : State) : exec (.encrypt blen) s = blockCommand s.sessionKey.encrypt blen s := rfl

theorem exec_decrypt (blen : Nat) (s : State) : exec (.decrypt blen) s = blockCommand s.sessionKey.decrypt blen s := rfl

/-- Both commands are the block command of a transform that only the session key gives (42_block.md R176). -/
theorem exec_block_eq {blen : Nat} {i : Instr} (hi : i = .encrypt blen ∨ i = .decrypt blen) :
    ∃ f : SessionKey → List Byte → List Byte, ∀ s, exec i s = blockCommand (f s.sessionKey) blen s := by
  rcases hi with rfl | rfl
  · exact ⟨SessionKey.encrypt, exec_encrypt blen⟩
  · exact ⟨SessionKey.decrypt, exec_decrypt blen⟩

section
variable (f : List Byte → List Byte) {blen : Nat} {s : State}

theorem blockCommand_noKey (hk : s.status.kvalid = false) : blockCommand f blen s = .next (complete .noKey s) := by
  simp [blockCommand, hk]

theorem blockCommand_badLength (hk : s.status.kvalid = true) (hb : blen ≠ 4 * s.kinfo.nb.toNat) :
    blockCommand f blen s = .next (complete .invalidArgument s) := by
  simp [blockCommand, hk, hb]

theorem blockCommand_success (hk : s.status.kvalid = true) (hb : blen = 4 * s.kinfo.nb.toNat) :
    blockCommand f blen s = .next (complete .none (writeOut (f (bufferBytes s.din blen)) s)) := by
  simp [blockCommand, hk, hb]

end

/-! ### The bytes of DOUT (42_block.md R175) -/

/-- Byte i of DOUT is byte i of the block written, and 0 above the block's end. -/
theorem bufferByte_writeOut (out : List Byte) (s : State) {i : Nat} (hi : i < 32) :
    bufferByte (writeOut out s).dout i = out.getD i 0 := by
  have hword : wordAt (writeOut out s).dout (i / 4) = bytesWord out (i / 4) := by
    rw [writeOut_dout, wordAt_wordsOf _ (by omega)]
    simp [show i / 4 < 8 by omega]
  rw [bufferByte, hword, bytesWord_byte out _ (Nat.mod_lt i (by decide)), Nat.div_add_mod]

/-- The bytes of DOUT above the block written are 0. -/
theorem bufferByte_writeOut_eq_zero {out : List Byte} (s : State) {i : Nat} (hi : i < 32) (h : out.length ≤ i) :
    bufferByte (writeOut out s).dout i = 0 := by
  rw [bufferByte_writeOut out s hi, List.getD_eq_default _ _ h]

/-- A block written to DOUT is read back from it. -/
theorem bufferBytes_writeOut {out : List Byte} (s : State) {n : Nat} (hn : n ≤ 32) (h : out.length = n) :
    bufferBytes (writeOut out s).dout n = out := by
  refine List.ext_getElem (by simp [h]) fun i hi ho => ?_
  have hi : i < n := by simpa using hi
  simp [bufferBytes, -writeOut_dout, bufferByte_writeOut out s (hi.trans_le hn), ho]

/-! ### Rows of words and columns (00_scope.md R14) -/

/-- A row of four bytes packed by their row number. -/
theorem rowByte_pack (y : Nat → Byte) {r : Nat} (hr : r < 4) : rowByte (b2w (y 0) (y 1) (y 2) (y 3)) r = y r := by
  have hcol : w2b (b2w (y 0) (y 1) (y 2) (y 3)) = ⟨y 0, y 1, y 2, y 3⟩ := w2b_word ⟨y 0, y 1, y 2, y 3⟩
  simp only [w2b, Column.mk.injEq] at hcol
  obtain ⟨h0, h1, h2, h3⟩ := hcol
  interval_cases r
  · exact h0
  · exact h1
  · exact h2
  · exact h3

@[simp] theorem rowByte_word_zero (c : Column) : rowByte c.word 0 = c.a0 := congrArg Column.a0 (w2b_word c)
@[simp] theorem rowByte_word_one (c : Column) : rowByte c.word 1 = c.a1 := congrArg Column.a1 (w2b_word c)
@[simp] theorem rowByte_word_two (c : Column) : rowByte c.word 2 = c.a2 := congrArg Column.a2 (w2b_word c)
@[simp] theorem rowByte_word_three (c : Column) : rowByte c.word 3 = c.a3 := congrArg Column.a3 (w2b_word c)

@[simp] theorem rowByte_xor (v w : Word) (r : Nat) : rowByte (v ^^^ w) r = rowByte v r ^^^ rowByte w r :=
  BitVec.extractLsb'_xor

/-- The offset table of 40_datapath.md R121 is the model's. -/
theorem shiftOffset_eq_rowShift (nb : Nat) {r : Nat} (hr : r < 4) : shiftOffset nb r = rowShift nb r := by
  unfold rowShift
  interval_cases r <;> simp [shiftOffset]

/-- A stored state is its columns' rows, column by column (40_datapath.md R119). -/
theorem storeState_getD {st : CipherState} {c r : Nat} (hc : c < st.length) (hr : r < 4) :
    (storeState st).getD (4 * c + r) 0 = rowByte (st.column c).word r := by
  have hcol : st.column c = bytesColumn (storeState st) c := by
    rw [← loadState_column _ hc, loadState_storeState]
  rw [hcol]
  exact (bytesWord_byte _ c hr).symm

/-- Word c of a round key (10_state.md R36). -/
theorem roundKey_getD (schedule : Vector Word 120) {nb c : Nat} (r : Nat) (hc : c < nb) :
    (roundKey schedule nb r).getD c 0 = wordAt schedule (r * nb + c) := by
  simp [roundKey, hc]

/-- Row r of column c after AddRoundKey (40_datapath.md R127). -/
theorem addRoundKey_row {st : CipherState} (schedule : Vector Word 120) {nb c : Nat} (hst : st.length = nb) (hc : c < nb)
    (n r : Nat) : rowByte ((addRoundKey st (roundKey schedule nb n)).column c).word r =
      rowByte (st.column c).word r ^^^ rowByte (wordAt schedule (n * nb + c)) r := by
  rw [addRoundKey_column (hst ▸ hc) (by simpa using hc), rowByte_xor, roundKey_getD schedule n hc]

/-- Row r of column c of the block in a buffer (40_datapath.md R119, 10_state.md R23). -/
theorem loadState_bufferBytes_row (buf : Vector Word 8) {nb c r : Nat} (hc : c < nb) (hr : r < 4) :
    rowByte ((loadState nb (bufferBytes buf (4 * nb))).column c).word r = bufferByte buf (4 * c + r) := by
  rw [loadState_column _ hc, ← bufferBytes_getD buf (show 4 * c + r < 4 * nb by omega)]
  exact bytesWord_byte _ c hr

/-! ### The rounds both ciphers run (42_block.md R171, R173) -/

/-- The shape R171 and R173 share, on states of NB columns: what a round does before column mixing, its column mixing, and
the schedule of its round keys. -/
structure Rounds (nb : Nat) where
  subst        : CipherState → CipherState
  mix          : CipherState → CipherState
  schedule     : Vector Word 120
  subst_length : ∀ st, (subst st).length = nb
  mix_length   : ∀ st, (mix st).length = st.length

/-- SubBytes and ShiftRows (42_block.md R171). -/
def substShift (nb : Nat) (st : CipherState) : CipherState := shiftRows nb (subBytes st)

/-- InvSubBytes and InvShiftRows (42_block.md R173). -/
def invSubstShift (nb : Nat) (st : CipherState) : CipherState := invShiftRows nb (invSubBytes st)

/-- The rounds of an encryption (42_block.md R171). -/
def encryption (ek : Vector Word 120) (nb : Nat) : Rounds nb where
  subst := substShift nb
  mix := mixColumns
  schedule := ek
  subst_length _ := shiftRows_length nb _
  mix_length := mixColumns_length

/-- The rounds of a decryption (42_block.md R173). -/
def decryption (dk : Vector Word 120) (nb : Nat) : Rounds nb where
  subst := invSubstShift nb
  mix := invMixColumns
  schedule := dk
  subst_length _ := invShiftRows_length nb _
  mix_length := invMixColumns_length

@[simp] theorem encryption_schedule (ek : Vector Word 120) (nb : Nat) : (encryption ek nb).schedule = ek := rfl
@[simp] theorem decryption_schedule (dk : Vector Word 120) (nb : Nat) : (decryption dk nb).schedule = dk := rfl

namespace Rounds

variable {nb : Nat} (R : Rounds nb)

/-- Round key r. -/
def key (r : Nat) : List Word := roundKey R.schedule nb r

@[simp] theorem key_length (r : Nat) : (R.key r).length = nb := roundKey_length R.schedule nb r

/-- The state after round n, a round that mixes columns; round 0 is the initial key XOR. -/
def state (st : CipherState) : Nat → CipherState
  | 0 => addRoundKey st (R.key 0)
  | n + 1 => addRoundKey (R.mix (R.subst (state st n))) (R.key (n + 1))

/-- The state after the last of nr rounds, which "omits column mixing". -/
def result (nr : Nat) (st : CipherState) : CipherState :=
  addRoundKey (R.subst (R.state st (nr - 1))) (R.key nr)

/-- The rounds keep the state at NB columns. -/
theorem state_length {st : CipherState} (hst : st.length = nb) (n : Nat) : (R.state st n).length = nb := by
  cases n with
  | zero => simp [state, hst]
  | succ n => simp [state, R.mix_length, R.subst_length]

@[simp] theorem result_length (nr : Nat) (st : CipherState) : (R.result nr st).length = nb := by
  simp [result, R.subst_length]

/-- The loop of R171 and R173 runs the rounds one by one. -/
theorem foldl_eq_state (st : CipherState) (n : Nat) :
    (List.range' 1 n).foldl (fun st r => addRoundKey (R.mix (R.subst st)) (R.key r)) (addRoundKey st (R.key 0)) =
      R.state st n := by
  induction n with
  | zero => rfl
  | succ n ih => rw [List.range'_1_concat, List.foldl_append, ih, Nat.add_comm 1 n]; rfl

/-- Row r of column c after round k of nr. -/
def trace (nr : Nat) (st : CipherState) (k r c : Nat) : Byte :=
  rowByte ((if k = nr then R.result nr st else R.state st k).column c).word r

/-- Before the last round the trace shows the rounds that mix columns. -/
theorem trace_of_lt {nr k : Nat} (h : k < nr) (st : CipherState) (r c : Nat) :
    R.trace nr st k r c = rowByte ((R.state st k).column c).word r := by
  rw [trace, if_neg h.ne]

/-- The trace ends with the result. -/
theorem trace_last (nr : Nat) (st : CipherState) (r c : Nat) :
    R.trace nr st nr r c = rowByte ((R.result nr st).column c).word r := by
  rw [trace, if_pos rfl]

/-- Row r of column c after AddRoundKey (40_datapath.md R127). -/
theorem addRoundKey_key_row {st : CipherState} {c : Nat} (hst : st.length = nb) (hc : c < nb) (n r : Nat) :
    rowByte ((addRoundKey st (R.key n)).column c).word r =
      rowByte (st.column c).word r ^^^ rowByte (wordAt R.schedule (n * nb + c)) r := by
  rw [addRoundKey_column (hst ▸ hc) (by simpa using hc), rowByte_xor, key, roundKey_getD R.schedule n hc]

/-- The trace of the block in a buffer starts with the initial key XOR. -/
theorem trace_initial {nr : Nat} (hnr : 1 ≤ nr) (buf : Vector Word 8) {r c : Nat} (hr : r < 4) (hc : c < nb) :
    R.trace nr (loadState nb (bufferBytes buf (4 * nb))) 0 r c =
      bufferByte buf (4 * c + r) ^^^ rowByte (wordAt R.schedule c) r := by
  rw [R.trace_of_lt hnr, state, R.addRoundKey_key_row (loadState_length _ _) hc, loadState_bufferBytes_row buf hc hr,
    Nat.zero_mul, Nat.zero_add]

/-- Each round but the last adds its key to the mixed columns; `g` mixes one column. -/
theorem trace_round {g : Column → Column} (hg : ∀ {st c}, c < st.length → (R.mix st).column c = g (st.column c))
    {nr k c : Nat} (hk : k + 1 < nr) {st : CipherState} (hc : c < nb) {y : Nat → Byte}
    (hy : (R.subst (R.state st k)).column c = ⟨y 0, y 1, y 2, y 3⟩) (r : Nat) : R.trace nr st (k + 1) r c =
      rowByte (g ⟨y 0, y 1, y 2, y 3⟩).word r ^^^ rowByte (wordAt R.schedule ((k + 1) * nb + c)) r := by
  rw [R.trace_of_lt hk, state, R.addRoundKey_key_row ((R.mix_length _).trans (R.subst_length _)) hc,
    hg (by rwa [R.subst_length]), hy]

/-- The last round adds its key to the columns unmixed. -/
theorem trace_final {nr r c : Nat} {st : CipherState} (hr : r < 4) (hc : c < nb) {y : Nat → Byte}
    (hy : (R.subst (R.state st (nr - 1))).column c = ⟨y 0, y 1, y 2, y 3⟩) :
    R.trace nr st nr r c = y r ^^^ rowByte (wordAt R.schedule (nr * nb + c)) r := by
  rw [R.trace_last, result, R.addRoundKey_key_row (R.subst_length _) hc, hy]
  exact congrArg (· ^^^ _) (rowByte_pack y hr)

end Rounds

/-- `Cipher` stores what the rounds of an encryption leave. -/
theorem cipher_eq (bs : List Byte) (ek : Vector Word 120) (nr nb : Nat) :
    cipher bs ek nr nb = storeState ((encryption ek nb).result nr (loadState nb bs)) := by
  rw [Rounds.result, ← Rounds.foldl_eq_state]
  rfl

/-- `InvCipher` stores what the rounds of a decryption leave. -/
theorem invCipher_eq (bs : List Byte) (dk : Vector Word 120) (nr nb : Nat) :
    invCipher bs dk nr nb = storeState ((decryption dk nb).result nr (loadState nb bs)) := by
  rw [Rounds.result, ← Rounds.foldl_eq_state]
  rfl

/-! ### The rounds by rows and columns -/

/-- Row r of column c after SubBytes and ShiftRows, of the state with bytes `x r c`. -/
def substShiftByte (nb : Nat) (x : Nat → Nat → Byte) (c r : Nat) : Byte := sbox (x r ((c + rowShift nb r) % nb))

/-- Row r of column c after InvSubBytes and InvShiftRows, of the state with bytes `x r c`. -/
def invSubstShiftByte (nb : Nat) (x : Nat → Nat → Byte) (c r : Nat) : Byte :=
  invSbox (x r ((c + nb - rowShift nb r) % nb))

section
variable {nb c : Nat} {st : CipherState} {x : Nat → Nat → Byte} (hst : st.length = nb) (hc : c < nb)
  (hx : ∀ r c, x r c = rowByte (st.column c).word r)
include hst hc hx

theorem substShift_column : (substShift nb st).column c =
    ⟨substShiftByte nb x c 0, substShiftByte nb x c 1, substShiftByte nb x c 2, substShiftByte nb x c 3⟩ := by
  rw [substShift, shiftRows_subBytes_column hst hc, shiftRows_column st hc]
  simp [Column.map, substShiftByte, hx, shiftOffset_eq_rowShift]

theorem invSubstShift_column : (invSubstShift nb st).column c =
    ⟨invSubstShiftByte nb x c 0, invSubstShiftByte nb x c 1, invSubstShiftByte nb x c 2, invSubstShiftByte nb x c 3⟩ := by
  have hin (n : Nat) : n % nb < st.length := hst ▸ Nat.mod_lt n (by omega)
  rw [invSubstShift, invShiftRows_column _ hc]
  simp [invSubBytes_column, hin, Column.map, invSubstShiftByte, hx, shiftOffset_eq_rowShift]

end

/-- InvMixColumns mixes each column (40_datapath.md R125). -/
theorem invMixColumns_column {st : CipherState} {c : Nat} (h : c < st.length) :
    (invMixColumns st).column c = invMixColumn (st.column c) := by
  rw [column_eq _ (by simpa using h), column_eq st h]
  simp [invMixColumns]

section
variable (buf : Vector Word 8) (schedule : Vector Word 120) {nr : Nat} (nb : Nat) (hnr : 1 ≤ nr)
include hnr

/-- The rounds of an encryption are a trace of R171. -/
theorem encryption_trace : EncryptTrace buf schedule nr nb
    ((encryption schedule nb).trace nr (loadState nb (bufferBytes buf (4 * nb)))) := by
  have hcol {k c : Nat} (hk : k < nr) (hc : c < nb) := substShift_column
    ((encryption schedule nb).state_length (loadState_length nb (bufferBytes buf (4 * nb))) k) hc
    ((encryption schedule nb).trace_of_lt hk _)
  constructor
  case initial => exact fun r hr c hc => (encryption schedule nb).trace_initial hnr buf hr hc
  case round =>
    intro k hk c hc
    have hrow := (encryption schedule nb).trace_round mixColumns_column hk hc (hcol (Nat.lt_of_succ_lt hk) hc)
    simp [hrow, mixColumn, substShiftByte]
  case final => exact fun r hr c hc => (encryption schedule nb).trace_final hr hc (hcol (by omega) hc)

/-- The rounds of a decryption are a trace of R173. -/
theorem decryption_trace : DecryptTrace buf schedule nr nb
    ((decryption schedule nb).trace nr (loadState nb (bufferBytes buf (4 * nb)))) := by
  have hcol {k c : Nat} (hk : k < nr) (hc : c < nb) := invSubstShift_column
    ((decryption schedule nb).state_length (loadState_length nb (bufferBytes buf (4 * nb))) k) hc
    ((decryption schedule nb).trace_of_lt hk _)
  constructor
  case initial => exact fun r hr c hc => (decryption schedule nb).trace_initial hnr buf hr hc
  case round =>
    intro k hk c hc
    have hrow := (decryption schedule nb).trace_round invMixColumns_column hk hc (hcol (Nat.lt_of_succ_lt hk) hc)
    simp [hrow, invMixColumn, invSubstShiftByte]
  case final => exact fun r hr c hc => (decryption schedule nb).trace_final hr hc (hcol (by omega) hc)

end

/-- A block command whose output stores the rounds' result completes with ERR = NONE and the last round of the trace in
DOUT, and changes nothing else (42_block.md R175, R176). -/
theorem blockCommand_rounds {s : State} (hk : s.status.kvalid = true) (hnb : s.kinfo.nb.toNat ∈ [4, 6, 8])
    {f : List Byte → List Byte} {nr : Nat} {st : CipherState} (R : Rounds s.kinfo.nb.toNat)
    (hf : f (bufferBytes s.din (4 * s.kinfo.nb.toNat)) = storeState (R.result nr st)) :
    ∃ t, blockCommand f (4 * s.kinfo.nb.toNat) s = .next t ∧
      t = { s with status := { s.status with busy := false, err := .none }, dout := t.dout } ∧
      (∀ c < s.kinfo.nb.toNat, ∀ r < 4, bufferByte t.dout (4 * c + r) = R.trace nr st nr r c) ∧
      (∀ i, 4 * s.kinfo.nb.toNat ≤ i → i < 32 → bufferByte t.dout i = 0) := by
  obtain ⟨-, h8⟩ := wordSize_bounds hnb
  refine ⟨_, blockCommand_success f hk rfl, rfl, fun c hc r hr => ?_, fun i hi h32 => ?_⟩
  · rw [complete_dout, hf, bufferByte_writeOut _ s (by omega), storeState_getD (by simpa using hc) hr, R.trace_last]
  · rw [complete_dout, hf, bufferByte_writeOut_eq_zero s h32 (by simpa using hi)]

/-! ### Each cipher undoes the other (42_block.md R174) -/

theorem Column.word_injective : Function.Injective Column.word := Function.LeftInverse.injective w2b_word

/-- AddRoundKey adds word c of the round key to column c, as a column. -/
theorem addRoundKey_eq_zipWith (st : CipherState) (k : List Word) :
    addRoundKey st k = st.zipWith (fun c w => c.xor (w2b w)) k := by
  have hxor (c : Column) (w : Word) : w2b (c.word ^^^ w) = c.xor (w2b w) := by
    refine Column.word_injective ?_
    rw [word_w2b, ← word_w2b w, w2b_word]
    exact b2w_xor ..
  simp only [addRoundKey, hxor]

/-- AddRoundKey with the same key undoes itself (40_datapath.md R127). -/
theorem addRoundKey_addRoundKey {st : CipherState} {k : List Word} (h : st.length = k.length) :
    addRoundKey (addRoundKey st k) k = st := by
  refine CipherState.ext_column (by simp [h]) fun c hc => Column.word_injective ?_
  have hk : c < k.length := by simpa [h] using hc
  rw [addRoundKey_column (by simpa [h] using hk) hk, addRoundKey_column (h ▸ hk) hk, BitVec.xor_assoc, BitVec.xor_self,
    BitVec.xor_zero]

/-- A linear map of columns passes AddRoundKey, if it is applied to the round key too (40_datapath.md R126, R128). -/
theorem map_addRoundKey {g : Column → Column} (hg : ∀ c d, g (c.xor d) = (g c).xor (g d)) (st : CipherState)
    (k : List Word) : (addRoundKey st k).map g = addRoundKey (st.map g) (k.map fun w => (g (w2b w)).word) := by
  simp [addRoundKey_eq_zipWith, List.map_zipWith, List.zipWith_map, hg]

/-- MixColumns of one word taken as a column: what undoes IMCW. -/
def mcw (w : Word) : Word := (mixColumn (w2b w)).word

@[simp] theorem mcw_imcw (w : Word) : mcw (imcw w) = w := by simp [mcw, imcw]

/-- The rounds B run those of A backwards: the inverse transforms, and A's round keys in reverse order, all but the first
and the last passed through B's column mixing (42_block.md R173, 41_makekey.md R155). -/
structure Rounds.Reverses {nb : Nat} (B A : Rounds nb) (nr : Nat) (mixWord : Word → Word) : Prop where
  subst     : ∀ st, st.length = nb → B.subst (A.subst st) = st
  mix       : ∀ st, B.mix (A.mix st) = st
  mix_key   : ∀ st k, B.mix (addRoundKey st k) = addRoundKey (B.mix st) (k.map mixWord)
  firstKey  : B.key 0 = A.key nr
  lastKey   : B.key nr = A.key 0
  middleKey : ∀ r, 0 < r → r < nr → B.key r = (A.key (nr - r)).map mixWord

section
variable {nb nr : Nat} {A B : Rounds nb} {mixWord : Word → Word} (h : B.Reverses A nr mixWord) {st : CipherState}
  (hst : st.length = nb)
include h hst

/-- After round k of B the state is the one A had in the middle of its round nr - k, before it mixed columns. -/
theorem Rounds.Reverses.state {k : Nat} (hk : k < nr) :
    B.state (A.result nr st) k = A.subst (A.state st (nr - 1 - k)) := by
  induction k with
  | zero =>
    rw [Rounds.state, h.firstKey, Rounds.result, addRoundKey_addRoundKey (by simp [A.subst_length]), Nat.sub_zero]
  | succ k ih =>
    obtain ⟨j, hj, hj'⟩ : ∃ j, nr - 1 - k = j + 1 ∧ nr - (k + 1) = j + 1 := ⟨nr - 1 - k - 1, by omega, by omega⟩
    have hlen : (A.state st (j + 1)).length = (A.key (j + 1)).length := by simp [A.state_length hst]
    calc B.state (A.result nr st) (k + 1)
        = addRoundKey (B.mix (B.subst (B.state (A.result nr st) k))) (B.key (k + 1)) := rfl
      _ = addRoundKey (B.mix (A.state st (j + 1))) ((A.key (j + 1)).map mixWord) := by
          rw [ih (by omega), hj, h.subst _ (A.state_length hst _), h.middleKey _ (by omega) hk, hj']
      _ = B.mix (addRoundKey (A.state st (j + 1)) (A.key (j + 1))) := (h.mix_key _ _).symm
      _ = B.mix (A.mix (A.subst (A.state st j))) := by
          rw [Rounds.state, addRoundKey_addRoundKey (by simp [A.mix_length, A.subst_length])]
      _ = A.subst (A.state st (nr - 1 - (k + 1))) := by rw [h.mix, show nr - 1 - (k + 1) = j by omega]

/-- B gives back the state that A started from. -/
theorem Rounds.Reverses.result (hnr : 1 ≤ nr) : B.result nr (A.result nr st) = st := by
  rw [Rounds.result, h.state hst (by omega), Nat.sub_self, h.subst _ (A.state_length hst 0), h.lastKey, Rounds.state,
    addRoundKey_addRoundKey (by simp [hst])]

end

/-- B gives back, as a block, the block that A started from. -/
theorem Rounds.Reverses.block {nb nr : Nat} {A B : Rounds nb} {mixWord : Word → Word} (h : B.Reverses A nr mixWord)
    (hnr : 1 ≤ nr) {bs : List Byte} (hbs : bs.length = 4 * nb) :
    storeState (B.result nr (loadState nb (storeState (A.result nr (loadState nb bs))))) = bs := by
  have hload : loadState nb (storeState (A.result nr (loadState nb bs))) = A.result nr (loadState nb bs) :=
    (congrArg (loadState · _) (A.result_length nr _).symm).trans (loadState_storeState _)
  rw [hload, h.result (loadState_length nb bs) hnr, storeState_loadState hbs]

@[simp] theorem invSubBytes_subBytes (st : CipherState) : invSubBytes (subBytes st) = st := by
  simp [invSubBytes, subBytes, Column.map, Function.comp_def]

@[simp] theorem subBytes_invSubBytes (st : CipherState) : subBytes (invSubBytes st) = st := by
  simp [invSubBytes, subBytes, Column.map, Function.comp_def]

/-- InvSubBytes and InvShiftRows undo SubBytes and ShiftRows (42_block.md R173). -/
theorem invSubstShift_substShift {nb : Nat} {st : CipherState} (h4 : 4 ≤ nb) (hst : st.length = nb) :
    invSubstShift nb (substShift nb st) = st := by
  rw [invSubstShift, substShift, ← invSubBytes_invShiftRows (shiftRows_length nb _),
    invShiftRows_shiftRows h4 ((subBytes_length st).trans hst), invSubBytes_subBytes]

/-- SubBytes and ShiftRows undo InvSubBytes and InvShiftRows. -/
theorem substShift_invSubstShift {nb : Nat} {st : CipherState} (h4 : 4 ≤ nb) (hst : st.length = nb) :
    substShift nb (invSubstShift nb st) = st := by
  rw [invSubstShift, substShift, ← invSubBytes_invShiftRows hst, subBytes_invSubBytes, shiftRows_invShiftRows h4 hst]

section
variable {ek dk : Vector Word 120} {nr nb : Nat}
  (hdk : ∀ r ≤ nr, ∀ c < nb, wordAt dk (r * nb + c) = invertedWord ek nr nb r c)
include hdk

/-- The first and the last round key of the decryption schedule (41_makekey.md R155). -/
theorem roundKey_inverted_end {r : Nat} (hr : r = 0 ∨ r = nr) : roundKey dk nb r = roundKey ek nb (nr - r) :=
  List.map_congr_left fun c hc => (hdk r (by omega) c (List.mem_range.1 hc)).trans (if_pos hr)

/-- The other round keys of the decryption schedule (41_makekey.md R155). -/
theorem roundKey_inverted_middle {r : Nat} (h0 : 0 < r) (hr : r < nr) :
    roundKey dk nb r = (roundKey ek nb (nr - r)).map imcw := by
  rw [roundKey, roundKey, List.map_map]
  exact List.map_congr_left fun c hc => (hdk r hr.le c (List.mem_range.1 hc)).trans (if_neg (by omega))

/-- A decryption reverses the encryption whose schedule was inverted. -/
theorem decryption_reverses (h4 : 4 ≤ nb) : (decryption dk nb).Reverses (encryption ek nb) nr imcw where
  subst _ := invSubstShift_substShift h4
  mix := invMixColumns_mixColumns
  mix_key := map_addRoundKey invMixColumn_xor
  firstKey := roundKey_inverted_end hdk (.inl rfl)
  lastKey := (roundKey_inverted_end hdk (.inr rfl)).trans (by rw [Nat.sub_self]; rfl)
  middleKey _ := roundKey_inverted_middle hdk

/-- An encryption reverses the decryption of its inverted schedule. -/
theorem encryption_reverses (h4 : 4 ≤ nb) : (encryption ek nb).Reverses (decryption dk nb) nr mcw where
  subst _ := substShift_invSubstShift h4
  mix := mixColumns_invMixColumns
  mix_key := map_addRoundKey mixColumn_xor
  firstKey := ((decryption_reverses hdk h4).lastKey).symm
  lastKey := ((decryption_reverses hdk h4).firstKey).symm
  middleKey r h0 hr := by
    rw [(decryption_reverses hdk h4).middleKey (nr - r) (by omega) (by omega), List.map_map,
      show nr - (nr - r) = r by omega]
    exact (List.map_id'' mcw_imcw _).symm

end

section
variable (key : List Byte) {nk nb : Nat} (hk : nk ∈ [4, 6, 8]) (hb : nb ∈ [4, 6, 8]) {bs : List Byte}
  (hbs : bs.length = 4 * nb)
include hk hb hbs

/-- The session key of a MAKEKEY decrypts what it encrypted. -/
theorem makeSessionKey_decrypt_encrypt :
    (makeSessionKey key nk nb).decrypt ((makeSessionKey key nk nb).encrypt bs) = bs := by
  obtain ⟨-, hnb, hnr⟩ := makeSessionKey_kinfo key hk hb
  rw [SessionKey.decrypt, SessionKey.encrypt, hnb, hnr, cipher_eq, invCipher_eq]
  exact (decryption_reverses (fun r hr c hc => makeSessionKey_dk key hk hb hr hc) (wordSize_bounds hb).1).block
    (by unfold roundCount; omega) hbs

/-- The session key of a MAKEKEY encrypts what it decrypted. -/
theorem makeSessionKey_encrypt_decrypt :
    (makeSessionKey key nk nb).encrypt ((makeSessionKey key nk nb).decrypt bs) = bs := by
  obtain ⟨-, hnb, hnr⟩ := makeSessionKey_kinfo key hk hb
  rw [SessionKey.decrypt, SessionKey.encrypt, hnb, hnr, cipher_eq, invCipher_eq]
  exact (encryption_reverses (fun r hr c hc => makeSessionKey_dk key hk hb hr hc) (wordSize_bounds hb).1).block
    (by unfold roundCount; omega) hbs

end

/-- A block goes to a block of the key's block length. -/
theorem SessionKey.encrypt_length (k : SessionKey) (bs : List Byte) : (k.encrypt bs).length = 4 * k.kinfo.nb.toNat := by
  rw [encrypt, cipher_eq, storeState_length, Rounds.result_length]

theorem SessionKey.decrypt_length (k : SessionKey) (bs : List Byte) : (k.decrypt bs).length = 4 * k.kinfo.nb.toNat := by
  rw [decrypt, invCipher_eq, storeState_length, Rounds.result_length]

/-- A supported size is whole words and fits a buffer (00_scope.md R9). -/
theorem SupportedSize.bounds {n : Nat} (h : SupportedSize n) : 4 * (n / 4) = n ∧ n ≤ 32 :=
  (by decide : ∀ n ∈ supportedSizes, 4 * (n / 4) = n ∧ n ≤ 32) n h

/-- After a MAKEKEY of supported lengths a key is held, for blocks of blen bytes (41_makekey.md R157). -/
theorem exec_makekey_holds_key {klen blen : Nat} {s t : State} (hk : SupportedSize klen) (hb : SupportedSize blen)
    (h : exec (.makekey klen blen) s = .next t) : t.status.kvalid = true ∧ blen = 4 * t.kinfo.nb.toNat := by
  obtain ⟨-, hnb, -⟩ :=
    makeSessionKey_kinfo (bufferBytes s.key klen) (SupportedSize.div_four hk) (SupportedSize.div_four hb)
  obtain ⟨h4, -⟩ := SupportedSize.bounds hb
  rw [exec_makekey_supported hk hb] at h
  obtain rfl := Host.Outcome.next.inj h
  refine ⟨rfl, ?_⟩
  rw [complete_kinfo, installKey_kinfo, hnb, h4]

/-- A block put through f and its output, moved from DOUT to DIN, through g, for transforms that undo each other under
the held key. -/
theorem blockCommand_roundTrip {f g : SessionKey → List Byte → List Byte} {blen : Nat} {t : State} (p : Vector Word 8)
    (hk : t.status.kvalid = true) (hb : blen = 4 * t.kinfo.nb.toNat) (h32 : blen ≤ 32)
    (hlen : (f t.sessionKey (bufferBytes p blen)).length = 4 * t.kinfo.nb.toNat)
    (hgf : g t.sessionKey (f t.sessionKey (bufferBytes p blen)) = bufferBytes p blen) :
    ∃ u v, blockCommand (f t.sessionKey) blen { t with din := p } = .next u ∧
      blockCommand (g u.sessionKey) blen { u with din := u.dout } = .next v ∧
      ∀ i < blen, bufferByte v.dout i = bufferByte p i := by
  refine ⟨_, _, blockCommand_success _ hk hb, blockCommand_success _ hk hb, fun i hi => ?_⟩
  have hout := bufferBytes_writeOut { t with din := p } h32 (hlen.trans hb.symm)
  rw [complete_dout, bufferByte_writeOut _ _ (hi.trans_le h32), complete_dout, hout]
  exact (congrArg (List.getD · i 0) hgf).trans (bufferBytes_getD p hi)

end Sys2Proof.Machine
end

section
/-! PROOF. The statements about 42_block.md. -/

namespace Sys2Proof.Machine

/-- Settles O25: the output stores the rounds' result, and the rounds, read by rows and columns, are a trace of R171. -/
theorem encryptFollowsRoundTrace : Obligations.EncryptFollowsRoundTrace := by
  unfold Obligations.EncryptFollowsRoundTrace
  intro s hk hnb hnr
  obtain ⟨t, ht, hframe, hout⟩ := blockCommand_rounds hk hnb (f := s.sessionKey.encrypt)
    (encryption s.ek s.kinfo.nb.toNat) (cipher_eq _ s.ek s.kinfo.nr.toNat s.kinfo.nb.toNat)
  exact ⟨t, _, (exec_encrypt _ s).trans ht, hframe, encryption_trace s.din s.ek s.kinfo.nb.toNat hnr, hout⟩

/-- Settles O26: the same of a decryption, whose rounds are a trace of R173. -/
theorem decryptFollowsRoundTrace : Obligations.DecryptFollowsRoundTrace := by
  unfold Obligations.DecryptFollowsRoundTrace
  intro s hk hnb hnr
  obtain ⟨t, ht, hframe, hout⟩ := blockCommand_rounds hk hnb (f := s.sessionKey.decrypt)
    (decryption s.dk s.kinfo.nb.toNat) (invCipher_eq _ s.dk s.kinfo.nr.toNat s.kinfo.nb.toNat)
  exact ⟨t, _, (exec_decrypt _ s).trans ht, hframe, decryption_trace s.din s.dk s.kinfo.nb.toNat hnr, hout⟩

/-- Settles O28: which of its three outcomes a block command has depends on KVALID and NB, and its output on the session
key and the first blen bytes of DIN. -/
theorem blockCommandReadsBlockAndKeyOnly : Obligations.BlockCommandReadsBlockAndKeyOnly := by
  unfold Obligations.BlockCommandReadsBlockAndKeyOnly
  intro s s' t t' blen i hi hv hkey hdin h h'
  have hinfo : s.kinfo = s'.kinfo := congrArg SessionKey.kinfo hkey
  obtain ⟨f, hf⟩ := exec_block_eq hi
  rw [hf] at h h'
  rcases blockCommand_cases (f s.sessionKey) blen s with ⟨hk, e⟩ | ⟨hk, hb, e⟩ | ⟨hk, hb, e⟩ <;>
    obtain rfl := Host.Outcome.next.inj (e.symm.trans h)
  · obtain rfl := Host.Outcome.next.inj ((blockCommand_noKey _ (hv ▸ hk)).symm.trans h')
    exact ⟨rfl, rfl, nofun⟩
  · obtain rfl := Host.Outcome.next.inj ((blockCommand_badLength _ (hv ▸ hk) (hinfo ▸ hb)).symm.trans h')
    exact ⟨rfl, rfl, nofun⟩
  · obtain rfl := Host.Outcome.next.inj ((blockCommand_success _ (hv ▸ hk) (hinfo ▸ hb)).symm.trans h')
    refine ⟨rfl, rfl, fun _ => ?_⟩
    rw [hkey, bufferBytes_congr hdin]
    rfl

/-- Settles O29: the decryption schedule of a MAKEKEY makes the rounds of a decryption those of the encryption run
backwards, and conversely. -/
theorem decryptInvertsEncrypt : Obligations.DecryptInvertsEncrypt := by
  unfold Obligations.DecryptInvertsEncrypt
  intro s t klen blen p hk hb h
  obtain ⟨hvalid, hblen⟩ := exec_makekey_holds_key hk hb h
  obtain ⟨h4, h32⟩ := SupportedSize.bounds hb
  have hp : (bufferBytes p blen).length = 4 * (blen / 4) := (bufferBytes_length p blen).trans h4.symm
  constructor
  · refine blockCommand_roundTrip (f := SessionKey.encrypt) (g := SessionKey.decrypt) p hvalid hblen h32
      (SessionKey.encrypt_length _ _) ?_
    rw [exec_makekey_sessionKey hk hb h]
    exact makeSessionKey_decrypt_encrypt _ (SupportedSize.div_four hk) (SupportedSize.div_four hb) hp
  · refine blockCommand_roundTrip (f := SessionKey.decrypt) (g := SessionKey.encrypt) p hvalid hblen h32
      (SessionKey.decrypt_length _ _) ?_
    rw [exec_makekey_sessionKey hk hb h]
    exact makeSessionKey_encrypt_decrypt _ (SupportedSize.div_four hk) (SupportedSize.div_four hb) hp

/-- Settles O27: the two error cases the commands share, KVALID checked first. -/
theorem blockCommandErrorsInOrder : Obligations.BlockCommandErrorsInOrder := by
  unfold Obligations.BlockCommandErrorsInOrder
  intro s blen i hi
  obtain ⟨f, hf⟩ := exec_block_eq hi
  rw [hf]
  exact ⟨blockCommand_noKey _, blockCommand_badLength _⟩

end Sys2Proof.Machine
end

section
/-! PROOF. The facts the statements about 43_control.md rest on: every completion answers and leaves the host alone, what a
wait for a pending command does step by step, and what SELFTEST and ZEROIZE leave. -/

namespace Sys2Proof.Machine

/-! ### Every completion answers (43_control.md R190, 60_exceptions.md R220) -/

/-- ENCRYPT and DECRYPT complete in every state. -/
theorem blockCommand_exists_next (f : List Byte → List Byte) (blen : Nat) (s : State) :
    ∃ t, blockCommand f blen s = .next t := by
  rcases blockCommand_cases f blen s with ⟨-, e⟩ | ⟨-, -, e⟩ | ⟨-, -, e⟩
  · exact ⟨_, e⟩
  · exact ⟨_, e⟩
  · exact ⟨_, e⟩

/-- No command faults or is refused. -/
theorem exec_exists_next (i : Instr) (s : State) : ∃ t, exec i s = .next t := by
  cases i with
  | nop => exact ⟨_, rfl⟩
  | makekey klen blen =>
    rcases execMakekey_cases klen blen s with ⟨-, e⟩ | ⟨-, -, e⟩ | ⟨-, -, e⟩
    · exact ⟨_, e⟩
    · exact ⟨_, e⟩
    · exact ⟨_, e⟩
  | encrypt blen => rw [exec_encrypt]; exact blockCommand_exists_next _ blen s
  | decrypt blen => rw [exec_decrypt]; exact blockCommand_exists_next _ blen s
  | selftest => exact ⟨_, rfl⟩
  | zeroize => exact ⟨_, rfl⟩

/-- No command writes PENDING or acts on the host. -/
theorem exec_keeps_pending_host {i : Instr} {s t : State} (h : exec i s = .next t) :
    t.pending = s.pending ∧ SameHost s t := by
  rcases exec_next_cases h with ⟨_, rfl⟩ | ⟨_, _, -, -, -, rfl⟩ | ⟨_, rfl⟩ | rfl | ⟨-, rfl⟩ <;>
    exact ⟨rfl, rfl, rfl, rfl, rfl, rfl⟩

/-- The core's turn completes the pending word, a command or illegal, and leaves the host alone (43_control.md R190). -/
theorem coreStep_completes (s : State) : ∃ t, coreStep s = .next t ∧ t.status.busy = false ∧ SameHost s t := by
  cases hd : decode s.pending with
  | ok i =>
    obtain ⟨t, ht⟩ := exec_exists_next i s
    exact ⟨t, (coreStep_ok hd).trans ht, exec_clears_busy ht, (exec_keeps_pending_host ht).2⟩
  | error e => exact ⟨_, coreStep_error hd, rfl, rfl, rfl, rfl, rfl, rfl⟩

/-! ### A wait for a pending command (30_encoding.md R99, 70_reset_and_hazards.md R250) -/

/-- A run of m + n steps goes on for n steps from where its first m lead. -/
theorem run_add (M : Host.Core) {m n : Nat} {s t : M.State} (h : M.run m s = .next t) : M.run (m + n) s = M.run n t := by
  induction m generalizing s with
  | zero => rw [Nat.zero_add, ← Host.Outcome.next.inj h]
  | succ m ih =>
    cases hs : M.step s with
    | next u =>
      rw [Nat.succ_add, run_next M hs]
      exact ih ((run_next M hs).symm.trans h)
    | fault f => rw [Host.Core.run, hs] at h; cases h
    | refused r => rw [Host.Core.run, hs] at h; cases h

/-- While inputs go before the completion, a wait polls and stays. -/
theorem step_poll_of_busy {s : State} {rest : List Input} (hb : s.status.busy = true) (hh : s.hold ≠ 0)
    (hi : s.inputs = .wait :: rest) : step s = .next { s with
      hold := s.hold - 1, returned := (statusOffset, s.status.word) :: s.returned } := by
  have hc : coreTurn s = false := by simp [coreTurn, hh, hi]
  rw [step_host hc, hostTurn_wait hi, if_pos hb, ← hi]
  simp [noteRead, advance, s.status.word_flags.1, hb]

/-- With no command pending, a wait ends at its first poll, and the host's wait with it (70_reset_and_hazards.md R245). -/
theorem step_wait_of_idle {s : State} {rest : List Input} (hb : s.status.busy = false) (hi : s.inputs = .wait :: rest) :
    step s = .next { s with
      inputs := rest, hold := s.hold - 1, awaiting := false
      returned := (statusOffset, s.status.word) :: s.returned } := by
  rw [step_host (coreTurn_of_idle hb), hostTurn_wait hi]
  simp [noteRead, advance, s.status.word_flags.1, hb, -BitVec.getLsbD_eq_getElem]

/-- The polls of a wait go one step each until the completion is due, and only note what they read. -/
theorem run_polls {s : State} {rest : List Input} (hb : s.status.busy = true) (hi : s.inputs = .wait :: rest) :
    ∃ u : State, Sys2Proof.core.run s.hold s = .next u ∧ u = { s with hold := 0, returned := u.returned } := by
  induction hn : s.hold generalizing s with
  | zero => exact ⟨s, rfl, by rw [← hn]⟩
  | succ n ih =>
    have hstep := step_poll_of_busy hb (by omega) hi
    obtain ⟨u, hrun, hu⟩ := ih (s := { s with
      hold := s.hold - 1, returned := (statusOffset, s.status.word) :: s.returned }) hb hi (Nat.sub_eq_of_eq_add hn)
    exact ⟨u, (core_run_next hstep).trans hrun, hu⟩

/-- A wait for a pending command: its polls, the completion from a state that differs from the first in the host's notes
alone, and the poll that ends it. -/
theorem run_wait_of_busy {s : State} {rest : List Input} (hb : s.status.busy = true) (hi : s.inputs = .wait :: rest) :
    ∃ u v : State, u = { s with hold := 0, returned := u.returned } ∧ coreStep u = .next v ∧ v.status.busy = false ∧
      Sys2Proof.core.run (s.hold + 2) s = .next { v with
        inputs := rest, hold := v.hold - 1, awaiting := false
        returned := (statusOffset, v.status.word) :: v.returned } := by
  obtain ⟨u, hpolls, hu⟩ := run_polls hb hi
  obtain ⟨v, hv, hvb, hvi, -⟩ := coreStep_completes u
  have hturn : coreTurn u = true := by rw [hu]; simp [coreTurn, hb]
  have hui : u.inputs = .wait :: rest := by rw [hu]; exact hi
  refine ⟨u, v, hu, hv, hvb, ?_⟩
  calc Sys2Proof.core.run (s.hold + 2) s
      = Sys2Proof.core.run 2 u := run_add Sys2Proof.core hpolls
    _ = Sys2Proof.core.run 1 v := core_run_next ((step_core hturn).trans hv)
    _ = _ := core_run_next (step_wait_of_idle hvb (hvi.trans hui))

/-! ### The self-test's cache (43_control.md R192) -/

/-- What the first SELFTEST leaves, for either result. -/
theorem complete_cacheSelfTest (result : Bool) (s : State) : complete .none (cacheSelfTest result s) = { s with
    status := { s.status with busy := false, err := .none, stDone := true, stPass := result } } := rfl

/-! ### A cleared register file (43_control.md R196) -/

@[simp] theorem wordAt_replicate_zero (n i : Nat) : wordAt (Vector.replicate n 0) i = 0 := by
  rcases Nat.lt_or_ge i n with h | h
  · rw [wordAt_eq _ h, Vector.getElem_replicate]
  · exact wordAt_eq_zero _ h

/-- After ZEROIZE every word of the window from KINFO on reads 0. -/
theorem windowWord_clearMaterial {off : Nat} (h : 0x010 ≤ off) (e : ErrCode) (s : State) :
    windowWord off (complete e (clearMaterial s)) = 0 := by
  rw [windowWord]
  rcases atOffset_cases off with ⟨ho, -⟩ | ⟨ho, -⟩ | ⟨ho, -⟩ | ⟨ho, -⟩ | ⟨-, a⟩ | ⟨-, a⟩ | ⟨-, a⟩ | ⟨-, a⟩ | ⟨-, a⟩ | ⟨-, a⟩ |
    ⟨-, a⟩
  iterate 4
    · omega
  all_goals rw [a, readReg]
  · exact (by decide : SessionKey.empty.kinfo.word = 0)
  iterate 5
    · exact wordAt_replicate_zero _ _

end Sys2Proof.Machine
end

section
/-! PROOF. The statements about 43_control.md. -/

namespace Sys2Proof.Machine

/-- Settles O36: each command's cases are all next states, and none of them writes PENDING or the host's part. -/
theorem everyCommandCompletes : Obligations.EveryCommandCompletes := by
  unfold Obligations.EveryCommandCompletes
  intro i s
  obtain ⟨t, ht⟩ := exec_exists_next i s
  exact ⟨t, ht, exec_clears_busy ht, exec_keeps_pending_host ht⟩

/-- Settles O44: the accept, then the wait, whose polls leave every register the command reads as the accept left it. -/
theorem commandThenWaitPerformsCommand : Obligations.CommandThenWaitPerformsCommand := by
  unfold Obligations.CommandThenWaitPerformsCommand
  intro s i rest hw hb hi
  obtain ⟨u, v, hu, hv, -, hrun⟩ :=
    run_wait_of_busy (s := accept (encode i) (advance (.wait :: rest) s)) rfl rfl
  have hdecode : decode u.pending = .ok i := by rw [hu]; exact encodedCommandDecodesToItself i hw
  refine ⟨_, u, v, _, ?_, by rw [hu]; rfl, (coreStep_ok hdecode).symm.trans hv,
    (core_run_next (step_write_cmd hb hi)).trans hrun, ⟨rfl, rfl, rfl, rfl, rfl, rfl, rfl⟩, rfl, rfl, rfl⟩
  rw [hu]
  exact ⟨rfl, rfl, rfl, rfl, rfl, rfl, rfl⟩

/-- Settles O1: the completion is due, so the step is the core's. -/
theorem stepRunsDecodedCommand : Obligations.StepRunsDecodedCommand := by
  unfold Obligations.StepRunsDecodedCommand
  intro s i hb hdue hd
  exact step_completion ((coreTurn_iff s).2 ⟨hb, hdue⟩) hd

/-- Settles O3: the completion is due, and that of an illegal word is the shared one with its code. -/
theorem illegalWordCompletesWithCode4 : Obligations.IllegalWordCompletesWithCode4 := by
  unfold Obligations.IllegalWordCompletesWithCode4
  intro s e hb hdue hd
  exact ⟨rfl, (step_core ((coreTurn_iff s).2 ⟨hb, hdue⟩)).trans (coreStep_error hd)⟩

/-- Settles O14: the step is the accept; the free value is the one it takes for `hold`. -/
theorem writeToCmdAcceptsWord : Obligations.WriteToCmdAcceptsWord := by
  unfold Obligations.WriteToCmdAcceptsWord
  intro s v rest hb hi
  exact ⟨_, step_write_cmd hb hi⟩

/-- Settles O19: NOP has no lengths to read, and the worked STATUS word determines the four flags. -/
theorem nopCompletesWithNoError : Obligations.NopCompletesWithNoError := by
  unfold Obligations.NopCompletesWithNoError
  refine ⟨fun _ => rfl, fun cmd hm => (decode_ok_iff cmd .nop).2 ⟨hm, trivial⟩, fun st hst => ?_⟩
  obtain ⟨-, hkvalid, hdone, hpass⟩ := st.word_flags
  rw [hst] at hkvalid hdone hpass
  have hflags : ({ st with busy := false, err := .none } : Status) = ⟨false, true, false, false, .none⟩ := by
    rw [← hkvalid, ← hdone, ← hpass]; rfl
  rw [hflags]
  decide

/-- Settles O31: SELFTEST's two outcomes, told apart by ST_DONE. -/
theorem selftestRunsOnceAndCaches : Obligations.SelftestRunsOnceAndCaches := by
  unfold Obligations.SelftestRunsOnceAndCaches
  intro s
  rcases execSelftest_cases s with ⟨hd, e⟩ | ⟨hd, e⟩
  · exact ⟨by simp [hd], fun _ => e⟩
  · exact ⟨fun _ => e.trans (congrArg _ (complete_cacheSelfTest selfTestResult s)), by simp [hd]⟩

/-- Settles O32: the nine symmetry checks and the known-answer check, each evaluated. -/
theorem selfTestResultIsPass : Obligations.SelfTestResultIsPass := by
  unfold Obligations.SelfTestResultIsPass
  exact selfTestResult_true

/-- Settles O33: the cleared state is written out, its window reads 0, and KVALID = 0 makes a block command fail. -/
theorem zeroizeClearsMaterial : Obligations.ZeroizeClearsMaterial := by
  unfold Obligations.ZeroizeClearsMaterial
  intro s
  refine ⟨_, rfl, rfl, fun off hoff _ => windowWord_clearMaterial hoff .none s, fun u blen i hv hi => ?_⟩
  obtain ⟨f, hf⟩ := exec_block_eq hi
  exact ⟨_, (hf u).trans (blockCommand_noKey _ hv), rfl⟩

end Sys2Proof.Machine
end

section
/-! PROOF. The facts the statements about 60_exceptions.md rest on: a completion with an error changes nothing else, and
what the host's next access of the window does while BUSY = 1. -/

namespace Sys2Proof.Machine

/-! ### Completions with an error (60_exceptions.md R212) -/

/-- A command that ends with an error code only completes: each installs, writes, caches or clears with code NONE alone. -/
theorem exec_error_eq_complete {i : Instr} {s t : State} (h : exec i s = .next t) (he : t.status.err ≠ .none) :
    t = complete t.status.err s := by
  rcases exec_next_cases h with ⟨e, rfl⟩ | ⟨_, _, -, -, -, rfl⟩ | ⟨_, rfl⟩ | rfl | ⟨-, rfl⟩
  · rfl
  iterate 4
    · exact absurd rfl he

/-- The same of every completion step, an illegal word's included (43_control.md R198). -/
theorem coreStep_error_eq_complete {s t : State} (h : coreStep s = .next t) (he : t.status.err ≠ .none) :
    t = complete t.status.err s := by
  cases hd : decode s.pending with
  | ok i => exact exec_error_eq_complete ((coreStep_ok hd).symm.trans h) he
  | error e =>
    obtain rfl := Host.Outcome.next.inj ((coreStep_error hd).symm.trans h)
    rfl

/-! ### The host's next access (60_exceptions.md R218) -/

/-- On the host's turn, the step is its next access of the window. -/
theorem step_window {s : State} {off : Nat} {width : Width} {kind : AccessKind} {rest : List Input} (ho : off < windowSize)
    (hc : coreTurn s = false) (hi : s.inputs = windowInput off width kind :: rest) :
    step s = windowAccess off width kind (advance rest s) := by
  rw [step_host hc, hostTurn_access hi, busAccess_window ho]

/-- An input that is to go before the completion makes it the host's turn (log entry 2). -/
theorem coreTurn_of_hold {s : State} {x : Input} {rest : List Input} (hh : s.hold ≠ 0) (hi : s.inputs = x :: rest) :
    coreTurn s = false := by
  simp [coreTurn, hh, hi]

/-- The check of width and alignment comes first, whatever BUSY is (60_exceptions.md R214). -/
theorem windowAccess_busError {off : Nat} {width : Width} (h : width ≠ .word ∨ off % 4 ≠ 0) (kind : AccessKind) (s : State) :
    windowAccess off width kind s = .fault (.busError off width kind.direction) := by
  rw [windowAccess, if_pos h]

/-- An aligned 32-bit access that is not admitted while BUSY = 1 (60_exceptions.md R215). -/
theorem windowAccess_denied {off : Nat} {kind : AccessKind} {s : State} (h4 : off % 4 = 0) (hb : s.status.busy = true)
    (hd : allowedWhileBusy (Reg.atOffset off) kind = false) :
    windowAccess off .word kind s = .fault (.protocolViolation off kind.direction) := by
  simp [windowAccess, h4, hb, hd]

/-- An aligned 32-bit access that is admitted while BUSY = 1 goes through, whatever BUSY is (60_exceptions.md R215). -/
theorem windowAccess_admitted {off : Nat} {kind : AccessKind} (h4 : off % 4 = 0)
    (ha : allowedWhileBusy (Reg.atOffset off) kind = true) (s : State) :
    windowAccess off .word kind s = .next (performAccess off kind s) := by
  simp [windowAccess, h4, ha]

/-- The admitted accesses by their offsets: the reads of ID, CAP and STATUS (60_exceptions.md R215). -/
theorem allowedWhileBusy_atOffset {off : Nat} {kind : AccessKind} :
    allowedWhileBusy (Reg.atOffset off) kind = true ↔ kind = .read ∧ (off = 0x000 ∨ off = 0x004 ∨ off = 0x00C) := by
  cases kind with
  | write v => simp
  | read =>
    constructor
    · intro h
      refine ⟨rfl, ?_⟩
      rcases atOffset_cases off with ⟨ho, -⟩ | ⟨ho, -⟩ | ⟨-, a⟩ | ⟨ho, -⟩ | ⟨-, a⟩ | ⟨-, a⟩ | ⟨-, a⟩ | ⟨-, a⟩ | ⟨-, a⟩ |
        ⟨-, a⟩ | ⟨-, a⟩
      · exact .inl ho
      · exact .inr (.inl ho)
      · rw [a] at h; cases h
      · exact .inr (.inr ho)
      all_goals rw [a] at h; cases h
    · rintro ⟨-, rfl | rfl | rfl⟩ <;> rfl

/-- What a read while BUSY = 1 leaves: the value noted, and the wait not ended, since a read of STATUS returns BUSY = 1
(70_reset_and_hazards.md R245). -/
theorem performAccess_read_of_busy {s : State} (hb : s.status.busy = true) (off : Nat) (rest : List Input) :
    performAccess off .read (advance rest s) = { s with
      inputs := rest, hold := s.hold - 1, returned := (off, windowWord off s) :: s.returned } := by
  have hawaiting := (performAccess_read_quiet off (advance rest s)).awaiting hb
  calc performAccess off .read (advance rest s)
      = { s with
          inputs := rest, hold := s.hold - 1, returned := (off, windowWord off s) :: s.returned
          awaiting := (performAccess off .read (advance rest s)).awaiting } := by
        rw [performAccess, readReg_advance]; rfl
    _ = _ := by rw [hawaiting]; rfl

end Sys2Proof.Machine
end

section
/-! PROOF. The statements about 60_exceptions.md. -/

namespace Sys2Proof.Machine

/-- Settles O34: a completion that reports an error is the shared end of every completion and no more. -/
theorem commandErrorsArePrecise : Obligations.CommandErrorsArePrecise := by
  unfold Obligations.CommandErrorsArePrecise
  intro s t hc h he
  exact coreStep_error_eq_complete ((step_core hc).symm.trans h) he

/-- Settles O8: the host's step is the access, and its first check fails. -/
theorem narrowOrMisalignedAccessIsBusError : Obligations.NarrowOrMisalignedAccessIsBusError := by
  unfold Obligations.NarrowOrMisalignedAccessIsBusError
  intro s off width kind rest ho hbad hc hi
  exact (step_window ho hc hi).trans (windowAccess_busError hbad kind _)

/-- Settles O9: the access has the window's width and alignment, and is none of the admitted reads. -/
theorem accessWhileBusyIsProtocolViolation : Obligations.AccessWhileBusyIsProtocolViolation := by
  unfold Obligations.AccessWhileBusyIsProtocolViolation
  intro s off kind rest ho h4 hother hb hh hi
  have hdenied : allowedWhileBusy (Reg.atOffset off) kind = false := by
    rw [← Bool.not_eq_true, allowedWhileBusy_atOffset]
    rintro ⟨hk, hoff⟩
    rcases hother with hk' | hoff'
    · exact hk' hk
    · omega
  exact (step_window ho (coreTurn_of_hold hh hi) hi).trans (windowAccess_denied h4 hb hdenied)

/-- Settles O10: the three reads are admitted, and a read while BUSY = 1 leaves only its note. -/
theorem identityAndStatusReadableWhileBusy : Obligations.IdentityAndStatusReadableWhileBusy := by
  unfold Obligations.IdentityAndStatusReadableWhileBusy
  intro s off v rest hmap hb hh hi
  have hoff : off = 0x000 ∨ off = 0x004 ∨ off = 0x00C := by omega
  have hv : windowWord off s = v := by
    rcases hmap with ⟨rfl, rfl⟩ | ⟨rfl, rfl⟩ | ⟨rfl, rfl⟩ <;> rfl
  have hallowed : allowedWhileBusy (Reg.atOffset off) .read = true := allowedWhileBusy_atOffset.2 ⟨rfl, hoff⟩
  have ho : off < windowSize := by simp only [windowSize]; omega
  rw [step_window ho (coreTurn_of_hold hh hi) hi, windowAccess_admitted (by omega) hallowed, performAccess_read_of_busy hb,
    hv]

end Sys2Proof.Machine
end

section
/-! PROOF. The facts the statements about 70_reset_and_hazards.md rest on: what a reset input leaves in the window, which
completions keep the self-test's cache, and that every step with a command pending ends it, stops, or brings it nearer to
its end. -/

namespace Sys2Proof.Machine

/-! ### The reset input (70_reset_and_hazards.md R240, R241) -/

/-- After a reset ID and CAP read their hardwired values and every other offset reads 0 (10_state.md R21). -/
theorem windowWord_resetCore (off : Nat) (s : State) : windowWord off (resetCore s) =
    if off = 0x000 then 0x52494A4E#32 else if off = 0x004 then 0x00000707#32 else 0#32 := by
  rcases atOffset_cases off with ⟨rfl, -⟩ | ⟨rfl, -⟩ | ⟨ho, a⟩ | ⟨ho, a⟩ | ⟨ho, a⟩ | ⟨ho, a⟩ | ⟨ho, a⟩ | ⟨ho, a⟩ |
    ⟨ho, a⟩ | ⟨ho, a⟩ | ⟨ho, a⟩
  · rfl
  · rfl
  all_goals rw [if_neg (by omega), if_neg (by omega), windowWord, a, readReg]
  · rfl
  · exact (by decide : State.reset.status.word = 0)
  · exact (by decide : State.reset.kinfo.word = 0)
  iterate 5
    · exact wordAt_replicate_zero _ _
  · rfl

/-- Once the self-test has run, no command writes its cached result: SELFTEST runs it at most once (43_control.md R192;
10_state.md R42). -/
theorem exec_keeps_cached_selfTest {i : Instr} {s t : State} (h : exec i s = .next t) (hd : s.status.stDone = true) :
    t.status.stDone = true ∧ t.status.stPass = s.status.stPass := by
  obtain ⟨hcommand, -⟩ := flagsFollowCommandTable
  obtain ⟨-, hstatus⟩ := hcommand i s t h
  cases i with
  | nop | zeroize => rw [hstatus]; exact ⟨hd, rfl⟩
  | makekey | encrypt | decrypt =>
    rcases hstatus with e | e | e <;> rw [e] <;> exact ⟨hd, rfl⟩
  | selftest =>
    obtain ⟨-, -, -, hcached⟩ := hstatus
    exact hcached hd

/-! ### No step is refused -/

/-- A bus access is performed or faults. -/
theorem busAccess_answers (a : Access) (s : State) : (∃ t, busAccess a s = .next t) ∨ ∃ f, busAccess a s = .fault f := by
  cases ho : windowOffset a.addr with
  | none => exact .inr ⟨_, busAccess_outside ho s⟩
  | some off =>
    simp only [busAccess, ho]
    rcases windowAccess_cases off a.width a.kind s with ⟨-, e⟩ | ⟨-, -, -, -, e⟩ | ⟨-, -, -, e⟩
    · exact .inr ⟨_, e⟩
    · exact .inr ⟨_, e⟩
    · exact .inl ⟨_, e⟩

/-- Every step answers a next state or a fault: the core's turn completes (60_exceptions.md R220), and of the host's inputs
only an access can fault. -/
theorem step_answers (s : State) : (∃ t, step s = .next t) ∨ ∃ f, step s = .fault f := by
  cases hc : coreTurn s with
  | true =>
    obtain ⟨t, ht, -⟩ := coreStep_completes s
    exact .inl ⟨t, (step_core hc).trans ht⟩
  | false =>
    rw [step_host hc]
    cases hi : s.inputs with
    | nil => exact .inl ⟨_, hostTurn_nil hi⟩
    | cons x rest =>
      cases x with
      | access a => rw [hostTurn_access hi]; exact busAccess_answers a _
      | wait => exact .inl ⟨_, hostTurn_wait hi⟩
      | reset => exact .inl ⟨_, hostTurn_reset hi⟩

/-! ### A pending command (70_reset_and_hazards.md R250) -/

/-- On the host's turn with a command pending, some input is to go before its completion (log entry 2). -/
theorem inputs_before_completion {s : State} (hb : s.status.busy = true) (hc : coreTurn s = false) :
    s.hold ≠ 0 ∧ s.inputs ≠ [] := by
  rw [← Bool.not_eq_true, coreTurn_iff] at hc
  simpa [hb] using hc

/-- With a command pending, a next state has it ended (completed, or abandoned by a reset), or has one host input fewer to
go before its completion: the accesses admitted are reads (60_exceptions.md R215). -/
theorem step_next_of_pending {s t : State} (hb : s.status.busy = true) (h : step s = .next t) :
    t.status.busy = false ∨ (t.status.busy = true ∧ t.hold < s.hold) := by
  rcases step_next_cases h with ⟨-, i, -, he⟩ | ⟨-, -, rfl⟩ | ⟨hc, hi, -⟩ | ⟨hc, a, rest, off, -, -, -, -, hgo, rfl⟩ |
    ⟨hc, rest, -, rfl⟩ | ⟨-, rest, -, rfl⟩
  · exact .inl (exec_clears_busy he)
  · exact .inl rfl
  · exact absurd hi (inputs_before_completion hb hc).2
  · have hread : a.kind = .read := by
      rcases hgo with hidle | hadmitted
      · simp [hb] at hidle
      · exact (allowedWhileBusy_atOffset.1 hadmitted).1
    rw [hread]
    exact .inr ⟨hb, Nat.sub_one_lt (inputs_before_completion hb hc).1⟩
  · exact .inr ⟨hb, Nat.sub_one_lt (inputs_before_completion hb hc).1⟩
  · exact .inl rfl

/-- A run stops at a fault of its first step. -/
theorem run_fault (M : Host.Core) {n : Nat} {s : M.State} {f : M.Fault} (h : M.step s = .fault f) :
    M.run (n + 1) s = .fault f := by
  rw [Host.Core.run, h]

/-! ### An access after the completion (70_reset_and_hazards.md R245) -/

/-- No access acts on what the host still does. -/
theorem performAccess_inputs (off : Nat) (kind : AccessKind) (s : State) : (performAccess off kind s).inputs = s.inputs := by
  cases kind with
  | read => rfl
  | write v =>
    rw [performAccess]
    rcases writeReg_cases (Reg.atOffset off) v s with ⟨i, -, e⟩ | ⟨i, -, e⟩ | ⟨-, e⟩ | ⟨-, -, -, e⟩ <;> rw [e]
    rfl

/-- The completion of a pending command that no host input goes before, whatever the host does next. -/
theorem step_completes_of_hold_zero {s : State} (hb : s.status.busy = true) (hh : s.hold = 0) :
    ∃ t, step s = .next t ∧ t.status.busy = false ∧ SameHost s t := by
  rw [step_core ((coreTurn_iff s).2 ⟨hb, .inl hh⟩)]
  exact coreStep_completes s

end Sys2Proof.Machine
end

section
/-! PROOF. The statements about 70_reset_and_hazards.md. -/

namespace Sys2Proof.Machine

/-- Settles O43: with one input to go before the completion the access is the protocol violation of R215; with none the
completion comes first and leaves an idle machine with the same inputs, whose next step performs the access. -/
theorem earlyAccessMayFault : Obligations.EarlyAccessMayFault := by
  unfold Obligations.EarlyAccessMayFault
  intro s off kind rest ho h4 hother hb hi
  refine ⟨⟨1, accessWhileBusyIsProtocolViolation { s with hold := 1 } off kind rest ho h4 hother hb Nat.one_ne_zero hi⟩,
    0, ?_⟩
  obtain ⟨t, ht, htb, htinputs, htreturned, -⟩ := step_completes_of_hold_zero (s := { s with hold := 0 }) hb rfl
  have hti : t.inputs = windowInput off .word kind :: rest := htinputs.trans hi
  have hu := step_access_of_idle ho h4 htb hti
  obtain ⟨-, hoff, -⟩ :=
    onlyCmdWritesActBeyondTheirRegister t _ off .word kind rest ho (coreTurn_of_idle htb) hti hu
  refine ⟨t, _, ht, htb, htinputs, hu, performAccess_inputs off kind _, ?_, ?_, ?_, fun v hk hcmd => ?_⟩
  · rintro rfl
    rw [performAccess_read_of_idle htb, ← htreturned]
  · rintro v rfl rfl
    exact ⟨rfl, rfl⟩
  · rintro v rfl hbuffer
    exact readReg_writeReg_same v _ hbuffer
  · obtain ⟨hstatus, -, hwords⟩ := hoff v hk hcmd
    exact ⟨hstatus, hwords⟩

/-- Settles O30: MAKEKEY leaves a key held for blocks of b1 bytes, and b2 is compared with that length. -/
theorem blockSizeBoundToSessionKey : Obligations.BlockSizeBoundToSessionKey := by
  unfold Obligations.BlockSizeBoundToSessionKey
  intro s t klen b1 b2 i hk hb1 h hi
  obtain ⟨hvalid, hlength⟩ := exec_makekey_holds_key hk hb1 h
  obtain ⟨f, hf⟩ := exec_block_eq hi
  rw [hf]
  by_cases hb2 : b2 = b1
  · exact ⟨_, blockCommand_success _ hvalid (hb2.trans hlength), by rw [if_pos hb2]; rfl⟩
  · exact ⟨_, blockCommand_badLength _ hvalid (hlength ▸ hb2), by rw [if_neg hb2]; rfl⟩

/-- Settles O37: no command's completion and no access writes a cached result, which leaves the reset input. -/
theorem onlyResetClearsSelfTestCache : Obligations.OnlyResetClearsSelfTestCache := by
  unfold Obligations.OnlyResetClearsSelfTestCache
  intro s t h hd
  rcases step_next_effect h with ⟨-, i, -, he⟩ | ⟨-, -, rfl⟩ | ⟨hc, rest, hi, -⟩ |
    ⟨-, -, a, rest, v, -, -, -, -, rfl⟩ | ⟨-, -, hq⟩
  · exact .inl (exec_keeps_cached_selfTest he hd)
  · exact .inl ⟨hd, rfl⟩
  · exact .inr ⟨hc, rest, hi⟩
  · exact .inl ⟨hd, rfl⟩
  · rw [hq.status]
    exact .inl ⟨hd, rfl⟩

/-- Settles O41, by induction on hold: each step ends the command, stops, or has fewer host inputs to go before the
completion. -/
theorem pendingCommandEnds : Obligations.PendingCommandEnds := by
  unfold Obligations.PendingCommandEnds
  intro s hb
  induction hh : s.hold using Nat.strong_induction_on generalizing s with
  | _ hold ih =>
    rcases step_answers s with ⟨t, ht⟩ | ⟨f, hf⟩
    · rcases step_next_of_pending hb ht with hdone | ⟨htb, hlt⟩
      · exact ⟨1, by omega, .inl ⟨t, core_run_next ht, hdone⟩⟩
      · obtain ⟨n, hn, hend⟩ := ih t.hold (hh ▸ hlt) t htb rfl
        refine ⟨n + 1, by omega, ?_⟩
        rwa [core_run_next ht]
    · exact ⟨1, by omega, .inr ⟨f, run_fault Sys2Proof.core hf⟩⟩

/-- Settles O42: with BUSY = 0 the first poll ends the wait; with BUSY = 1 the polls, the completion and one more poll. -/
theorem waitEndsWithBusyClear : Obligations.WaitEndsWithBusyClear := by
  unfold Obligations.WaitEndsWithBusyClear
  intro s rest hi
  cases hb : s.status.busy with
  | false => exact ⟨_, core_run_next (step_wait_of_idle hb hi), hb, rfl, rfl⟩
  | true =>
    obtain ⟨-, v, -, -, hvb, hrun⟩ := run_wait_of_busy hb hi
    exact ⟨_, hrun, hvb, rfl, rfl⟩

/-- Settles O18: the step is the reset, whatever is pending. -/
theorem resetInputGivesResetState : Obligations.ResetInputGivesResetState := by
  unfold Obligations.ResetInputGivesResetState
  intro s rest hc hi
  exact ⟨_, (step_host hc).trans (hostTurn_reset hi), rfl, rfl, rfl, fun off _ _ => windowWord_resetCore off _⟩

/-- Settles O48: the state after reset is idle, holds no key and has not run the self-test. -/
theorem resetMeetsInvariant : Obligations.ResetMeetsInvariant := by
  unfold Obligations.ResetMeetsInvariant
  exact inv_of_idle rfl (keyStoreOk_empty rfl rfl) rfl

end Sys2Proof.Machine
end

section
/-! PROOF. The statement about bus addresses outside the window (20_memory.md R60; log entry 4). -/

namespace Sys2Proof.Machine

/-- A bus address names no offset exactly when it lies below the window or above it (20_memory.md R60). -/
theorem windowOffset_eq_none_iff (addr : Nat) :
    windowOffset addr = none ↔ addr < Config.base ∨ Config.base + windowSize ≤ addr := by
  simp [windowOffset, imp_iff_not_or]

/-- Settles O16: the host acts, and the address of its access names no offset of the window. -/
theorem accessOutsideWindowStops : Obligations.AccessOutsideWindowStops := by
  unfold Obligations.AccessOutsideWindowStops
  intro s a rest ha hc hi
  have ho : windowOffset a.addr = none := (windowOffset_eq_none_iff a.addr).mpr ha
  calc step s = busAccess a (advance rest s) := (step_host hc).trans (hostTurn_access hi)
    _ = .fault (.outsideWindow a.addr a.kind.direction) := busAccess_outside ho _

end Sys2Proof.Machine
end
